-- ==== Sys2Proof/Word.lean ====
section
/-! DEFINITION. The word types of the engine: the 32-bit registers of the register block and the byte both memories
are made of. Both are abbreviations of `BitVec`, so that its lemmas apply. -/

namespace Sys2Proof

/-- A 32-bit register (46_host_interface.md R301; 10_state.md R21, R23). -/
abbrev Word := BitVec 32

/-- One byte of SRC or DST (20_memory.md R60). -/
abbrev Byte := BitVec 8

end Sys2Proof
end

