-- ==== Sys2Proof/Machine/Trace.lean ====
section
/-! DEFINITION. Trace records and bit spans (45_trace.md R271 to R273): the plain data that the engine emits. -/

namespace Sys2Proof.Machine

/-- `span(i, n)`: the `n` stream bits that start at bit position `i` (45_trace.md R271: index 32 bits, length 8). -/
structure Span where
  index : Word
  length : BitVec 8
  deriving DecidableEq, Repr

/-- The category of a code-length record (45_trace.md R273). Code 3 is never used and has no constructor. -/
inductive Category where
  | runLengthTable
  | lz77LengthTable
  | lz77DistTable
  deriving DecidableEq, Repr

/-- The category codes of 45_trace.md R273. -/
def Category.code : Category → BitVec 2
  | .runLengthTable => 0
  | .lz77LengthTable => 1
  | .lz77DistTable => 2

/-- The record variants with the fields and widths of 45_trace.md R272. Tags 12 and 13 (GzipHeader, GzipFooter) are
reserved for a host-side container and never emitted by the engine (R277), so they have no constructor. -/
inductive TraceRecord where
  | bfinal (value : BitVec 1) (span : Span)
  | btype (value : BitVec 2) (span : Span)
  | hlit (value : BitVec 9) (span : Span)
  | hdist (value : BitVec 6) (span : Span)
  | hclen (value : BitVec 5) (span : Span)
  | codeLength (category : Category) (symbol : BitVec 9) (codeLength : BitVec 4) (span : Span)
  | repeatCodeLength (category : Category) (repeatSymbol : BitVec 5) (repeatCount : BitVec 8)
      (codeLength : BitVec 4) (affectedSymbols : List (BitVec 9)) (span : Span)
  | literal (value : Byte) (span : Span)
  | lz77 (lengthValue : BitVec 9) (lengthSymbol : BitVec 9) (lengthExtraSpan : Span)
      (distValue : BitVec 16) (distSymbol : BitVec 5) (distExtraSpan : Span) (span : Span)
      (producedBytes : List Byte)
  | blockEnd (span : Span)
  | storedHeader (pad : BitVec 3) (len nlen : BitVec 16) (span : Span)
  deriving DecidableEq, Repr

/-- The tags of 45_trace.md R272. -/
def TraceRecord.tag : TraceRecord → BitVec 4
  | .bfinal _ _ => 1
  | .btype _ _ => 2
  | .hlit _ _ => 3
  | .hdist _ _ => 4
  | .hclen _ _ => 5
  | .codeLength _ _ _ _ => 6
  | .repeatCodeLength _ _ _ _ _ _ => 7
  | .literal _ _ => 8
  | .lz77 _ _ _ _ _ _ _ _ => 9
  | .blockEnd _ => 10
  | .storedHeader _ _ _ _ => 11

/-- The span of a record: the stream bits its element was decoded from (45_trace.md R278). -/
def TraceRecord.span : TraceRecord → Span
  | .bfinal _ sp => sp
  | .btype _ sp => sp
  | .hlit _ sp => sp
  | .hdist _ sp => sp
  | .hclen _ sp => sp
  | .codeLength _ _ _ sp => sp
  | .repeatCodeLength _ _ _ _ _ sp => sp
  | .literal _ sp => sp
  | .lz77 _ _ _ _ _ _ sp _ => sp
  | .blockEnd sp => sp
  | .storedHeader _ _ _ sp => sp

/-- The output bytes a record stands for (45_trace.md R283): a literal's value, a back-reference's produced bytes. -/
def TraceRecord.text : TraceRecord → List Byte
  | .literal v _ => [v]
  | .lz77 _ _ _ _ _ _ _ bytes => bytes
  | _ => []

end Sys2Proof.Machine
end

