-- ==== Sys2Proof/Config.lean ====
section
/-! DEFINITION. What an implementation or a platform fixes (00_scope.md R7, section 2 of 92_eei_decisions.md) and the
values the spec leaves free (93_implementation_defined.md U3, U6). Each open one is a constant WITHOUT A BODY: no proof
can see its value, so a claim holds for every value that meets the constraint. -/

namespace Sys2Proof.Config

/-- MAX_CODE_BITS (00_scope.md R7): the longest Huffman code, and the bound of the decode loop. -/
def maxCodeBits : Nat := 15

/-- REFILL_THRESHOLD (00_scope.md R7): the bit buffer refills while it holds fewer bits. -/
def refillThreshold : Nat := 24

/-- The 29-bit number SRC_MAX_BYTES is made from. Open (log entry 9). -/
opaque srcMaxRaw : BitVec 29

/-- SRC_MAX_BYTES (00_scope.md R7): the largest source length. The maximum with 1 gives exactly the numbers the
constraint `1 ≤ SRC_MAX_BYTES ≤ 2^29 - 1` allows. -/
def srcMaxBytes : Nat := max 1 srcMaxRaw.toNat

/-- The 32-bit number DST_CAP_MAX is made from. Open (log entry 9). -/
opaque dstCapMaxRaw : BitVec 32

/-- DST_CAP_MAX (00_scope.md R7): the largest destination capacity, `0 ≤ DST_CAP_MAX ≤ 2^32 - 1`. -/
def dstCapMax : Nat := dstCapMaxRaw.toNat

/-- CSR_BASE (00_scope.md R7): the host address of the register block. Open. Its width, 32 bits, is the model's choice
(DESIGN CHOICE, log entry 31), as are those of the two windows. -/
opaque csrBase : Word

/-- SRC_WINDOW (00_scope.md R7): the host address at which SRC appears, if it appears at all. Open. -/
opaque srcWindow : Option Word

/-- DST_WINDOW (00_scope.md R7): the host address at which DST appears, if it appears at all. Open. -/
opaque dstWindow : Option Word

/-- TRACE_WIRE_FORMAT (00_scope.md R7; 45_trace.md R286): the bits of one record on the trace port. Open. -/
opaque traceWireFormat : Machine.TraceRecord → List Bool

/-- FREE VALUE (93_implementation_defined.md U3; log entry 7): SRCIDX after the `k`-th fault. -/
opaque freeSrcIdx : Nat → Word

/-- FREE VALUE (93_implementation_defined.md U3; log entry 7): BITBUF after the `k`-th fault. -/
opaque freeBitBuf : Nat → Word

/-- FREE VALUE (93_implementation_defined.md U3; log entry 7): BITCNT after the `k`-th fault. -/
opaque freeBitCnt : Nat → BitVec 5

/-- FREE VALUE (93_implementation_defined.md U6; log entry 14): what a register read that is not 32 bits wide or not
aligned returns. -/
opaque freeRead : Nat → Word

end Sys2Proof.Config
end

