-- ==== Sys2Proof/Machine/Bits.lean ====
section
/-! DEFINITION. Bit sequences: a field is read least significant bit first and a code most significant bit first
(20_memory.md R66). -/

namespace Sys2Proof.Machine

/-- The unsigned value of a field whose first stream bit is its least significant bit (20_memory.md R66). -/
def bitsToNat : List Bool → Nat
  | [] => 0
  | b :: rest => b.toNat + 2 * bitsToNat rest

/-- The `w` bits of a field of value `v`, in stream order: least significant bit first (20_memory.md R66). -/
def natBits : Nat → Nat → List Bool
  | 0, _ => []
  | w + 1, v => decide (v % 2 = 1) :: natBits w (v / 2)

/-- The bits of a `w`-bit field operand in stream order. -/
def fieldBits {w : Nat} (v : BitVec w) : List Bool := natBits w v.toNat

/-- The `n` bits of a code in stream order: most significant bit first (20_memory.md R66). -/
def codeBits (n code : Nat) : List Bool := (natBits n code).reverse

/-- `roundup8(p)`: the least multiple of 8 that is at least `p` (00_scope.md R8). -/
def roundup8 (p : Nat) : Nat := (p + 7) / 8 * 8

/-- `(8 - (p mod 8)) mod 8`: the bits from position `p` to the next byte boundary (40_bitcursor.md R125). -/
def padOf (p : Nat) : Nat := (8 - p % 8) % 8

end Sys2Proof.Machine
end

