-- ==== Sys2Proof/Machine/Tree.lean ====
section
/-! DEFINITION. The form of a canonical Huffman decode table (41_huffman.md R150) and the table memories that hold the
dynamic ones (10_state.md R33). What builds and decodes one stands in Machine/Huffman.lean. -/

namespace Sys2Proof.Machine

/-- A tree `(counts[0..15], symbols[0..T-1])` (41_huffman.md R150), as `build` gives it and `decodeSymbol` takes it. Nine
bits hold every count (at most 288) and every symbol (at most 287) of the five trees. -/
structure Tree where
  /-- `counts[l]`: how many symbols have a code of `l` bits. -/
  counts : Vector (BitVec 9) 16
  /-- The symbols that have a code, by code length and then by symbol number. -/
  symbols : List (BitVec 9)
  deriving DecidableEq, Repr

/-- The tree in which no symbol has a code. -/
def Tree.empty : Tree := { counts := Vector.replicate 16 0, symbols := [] }

/-- A table memory for a dynamic tree (10_state.md R33): 16 counts of `cw` bits and `size` symbol entries of `sw` bits.
The entries `symbols[j]` with `j ≥ T` are in the memory too: a build does not write them and no decode reads them
(41_huffman.md R153). -/
structure TreeTable (cw sw size : Nat) where
  counts : Vector (BitVec cw) 16
  symbols : Vector (BitVec sw) size
  deriving DecidableEq, Repr

/-- The table memory of CLT: counts of 5 bits, 19 entries of 5 bits (10_state.md R33). -/
abbrev CltTable := TreeTable 5 5 19

/-- The table memory of DLT: counts of 9 bits, 286 entries of 9 bits (10_state.md R33). -/
abbrev DltTable := TreeTable 9 9 286

/-- The table memory of DDT: counts of 6 bits, 32 entries of 5 bits (10_state.md R33). -/
abbrev DdtTable := TreeTable 6 5 32

variable {cw sw size : Nat}

/-- The table memory with every entry 0. -/
def TreeTable.blank : TreeTable cw sw size :=
  { counts := Vector.replicate 16 0, symbols := Vector.replicate size 0 }

/-- `T = Σ counts[l]` (41_huffman.md R150). -/
def TreeTable.total (m : TreeTable cw sw size) : Nat := (m.counts.toList.map BitVec.toNat).sum

/-- The tree a table memory holds: its counts and its first `T` symbols (41_huffman.md R150). -/
def TreeTable.tree (m : TreeTable cw sw size) : Tree :=
  { counts := m.counts.map (·.setWidth 9)
    symbols := (m.symbols.toList.take m.total).map (·.setWidth 9) }

/-- The symbol entries after a build has written `new` over the first of them: the others keep their content
(41_huffman.md R153), and an entry the memory does not have is not written. -/
def writeEntries (new old : List (BitVec sw)) (size : Nat) : List (BitVec sw) :=
  (new ++ old.drop new.length).take size

theorem length_writeEntries (new old : List (BitVec sw)) (h : old.length = size) :
    (writeEntries new old size).length = size := by
  simp only [writeEntries, List.length_take, List.length_append, List.length_drop]
  omega

/-- Write a built tree into a table memory (41_huffman.md R151). -/
def TreeTable.store (m : TreeTable cw sw size) (t : Tree) : TreeTable cw sw size :=
  { counts := t.counts.map (·.setWidth cw)
    symbols := Vector.mk (writeEntries (t.symbols.map (·.setWidth sw)) m.symbols.toList size).toArray
      (by rw [List.size_toArray]; exact length_writeEntries _ _ (by simp)) }

end Sys2Proof.Machine
end

