-- ==== Sys2Proof/Machine/Huffman.lean ====
section
/-! DEFINITION. Canonical Huffman tables: the build (41_huffman.md R151), the codes a table implies (R154) and the
decode loop (R155). -/

namespace Sys2Proof.Machine

/-- `counts[l]` of a tree, as a number. -/
def Tree.count (t : Tree) (l : Nat) : Nat := (t.counts[l]?.getD 0).toNat

/-- The symbols of code length `l`, in increasing order (41_huffman.md R150). -/
def symbolsOfLength (lengths : List Nat) (l : Nat) : List Nat :=
  (List.range lengths.length).filter fun i => lengths.getD i 0 = l

/-- `build(L)` (41_huffman.md R151): `counts[l]` is the number of symbols of length `l`, `counts[0]` is 0, and
`symbols` lists the symbols of length 1, then those of length 2, and so on, each in increasing order, which is the order
the prefix-sum placement of R151 gives. It accepts every length array (R152). -/
def build (lengths : List Nat) : Tree :=
  { counts := Vector.ofFn fun l : Fin 16 =>
      if l.val = 0 then 0 else BitVec.ofNat 9 (symbolsOfLength lengths l.val).length
    symbols := ((List.range' 1 15).flatMap (symbolsOfLength lengths)).map (BitVec.ofNat 9) }

/-- Why no element can be decoded. The first three are raises of the spec; the last is met only with a table that no
build writes (30_encoding.md R90; 41_huffman.md R158). -/
inductive DecodeError where
  /-- A read needs a bit at a position `≥ 8·N`: TruncatedStream (40_bitcursor.md R127). -/
  | truncated
  /-- Fifteen bits were read and no code ended: InvalidCode (41_huffman.md R156). -/
  | invalidCode
  /-- Code-length symbol 16 with no previous length: InvalidStream (42_dynamic_trees.md R187). -/
  | noPreviousLength
  /-- The decode loop ended at an entry the table does not hold, or at a symbol no row of R88 has. -/
  | noTableEntry
  deriving DecidableEq, Repr

/-- The loop of `decodeSymbol` (41_huffman.md R155). `fuel` is the number of bits that may still be read: the loop
raises InvalidCode when 15 have been (R156), and that check comes before the next bit is asked for (R157). -/
def decodeLoop (t : Tree) : (fuel len sum : Nat) → (cur : Int) → List Bool →
    Except DecodeError (Nat × Nat × List Bool)
  | 0, _, _, _, _ => .error .invalidCode
  | _ + 1, _, _, _, [] => .error .truncated
  | fuel + 1, len, sum, cur, b :: rest =>
    let len' := len + 1
    let sum' := sum + t.count len'
    let cur' := 2 * cur + (b.toNat : Int) - (t.count len' : Int)
    if cur' < 0 then
      match t.symbols[((sum' : Int) + cur').toNat]? with
      | some sym => .ok (sym.toNat, len', rest)
      | none => .error .noTableEntry
    else decodeLoop t fuel len' sum' cur' rest

/-- `decodeSymbol(T) -> (symbol, len)` on the bits that follow (41_huffman.md R155), with the bits it leaves. -/
def decodeSymbol (t : Tree) (bits : List Bool) : Except DecodeError (Nat × Nat × List Bool) :=
  decodeLoop t Config.maxCodeBits 0 0 0 bits

/-- `code(l)`: the first code of length `l` (41_huffman.md R154). -/
def firstCode (t : Tree) : Nat → Nat
  | 0 => 0
  | 1 => 0
  | l + 2 => 2 * (firstCode t (l + 1) + t.count (l + 1))

/-- The index in `symbols` of the first symbol of length `l`: `offs[l]` of 41_huffman.md R151. -/
def firstSlot (t : Tree) : Nat → Nat
  | 0 => 0
  | 1 => 0
  | l + 2 => firstSlot t (l + 1) + t.count (l + 1)

/-- The `n`-bit code of a symbol, in stream order, where the tree gives it one (41_huffman.md R154): the `k`-th symbol
of length `n` has the code `code(n) + k`. In an over-subscribed tree a symbol past the capacity of its length has no
code (R159). -/
def encodeSymbol (t : Tree) (n sym : Nat) : Option (List Bool) :=
  let slots := (t.symbols.drop (firstSlot t n)).take (t.count n)
  match slots.findIdx? (fun x => x.toNat = sym) with
  | some k => if firstCode t n + k < 2 ^ n then some (codeBits n (firstCode t n + k)) else none
  | none => none

end Sys2Proof.Machine
end

