-- ==== Sys2Proof/Machine/Tables.lean ====
section
/-! DEFINITION. The read-only tables, which no rule writes (10_state.md R34 to R36; 70_reset_and_hazards.md R361). They
are constants of the model, not fields of State (log entry 18). -/

namespace Sys2Proof.Machine

/-- ORDER (42_dynamic_trees.md R184; 10_state.md R36). -/
def order : List Nat := [16, 17, 18, 0, 8, 7, 9, 6, 10, 5, 11, 4, 12, 3, 13, 2, 14, 1, 15]

/-- `ORDER[i]`. -/
def orderAt (i : Nat) : Nat := order.getD i 0

/-- The rows (LBITS, LBASE) of 43_block_body.md R215, by index `i = symbol - 257`. -/
def lengthRows : List (Nat × Nat) :=
  [(0, 3), (0, 4), (0, 5), (0, 6), (0, 7), (0, 8), (0, 9), (0, 10),
   (1, 11), (1, 13), (1, 15), (1, 17), (2, 19), (2, 23), (2, 27), (2, 31),
   (3, 35), (3, 43), (3, 51), (3, 59), (4, 67), (4, 83), (4, 99), (4, 115),
   (5, 131), (5, 163), (5, 195), (5, 227), (0, 258)]

/-- `LBITS[i]` (43_block_body.md R215). -/
def lbits (i : Nat) : Nat := (lengthRows.getD i (0, 0)).1

/-- `LBASE[i]` (43_block_body.md R215). -/
def lbase (i : Nat) : Nat := (lengthRows.getD i (0, 0)).2

/-- The rows (DBITS, DBASE) of 43_block_body.md R217, by distance symbol. -/
def distanceRows : List (Nat × Nat) :=
  [(0, 1), (0, 2), (0, 3), (0, 4), (1, 5), (1, 7), (2, 9), (2, 13), (3, 17), (3, 25),
   (4, 33), (4, 49), (5, 65), (5, 97), (6, 129), (6, 193), (7, 257), (7, 385), (8, 513), (8, 769),
   (9, 1025), (9, 1537), (10, 2049), (10, 3073), (11, 4097), (11, 6145), (12, 8193), (12, 12289),
   (13, 16385), (13, 24577)]

/-- `DBITS[d]` (43_block_body.md R217). -/
def dbits (d : Nat) : Nat := (distanceRows.getD d (0, 0)).1

/-- `DBASE[d]` (43_block_body.md R217). -/
def dbase (d : Nat) : Nat := (distanceRows.getD d (0, 0)).2

/-- FLT, the fixed literal/length tree, as the literal content 41_huffman.md R161 gives. -/
def fixedLit : Tree :=
  { counts := #v[0, 0, 0, 0, 0, 0, 0, 24, 152, 112, 0, 0, 0, 0, 0, 0]
    symbols := (List.range' 256 24 ++ List.range' 0 144 ++ List.range' 280 8 ++ List.range' 144 112).map
      (BitVec.ofNat 9) }

/-- FDT, the fixed distance tree, as the literal content 41_huffman.md R162 gives. -/
def fixedDist : Tree :=
  { counts := #v[0, 0, 0, 0, 0, 32, 0, 0, 0, 0, 0, 0, 0, 0, 0, 0]
    symbols := (List.range 32).map (BitVec.ofNat 9) }

/-- The code lengths FLT is built from (41_huffman.md R161). -/
def fixedLitLengths : List Nat :=
  List.replicate 144 8 ++ List.replicate 112 9 ++ List.replicate 24 7 ++ List.replicate 8 8

/-- The code lengths FDT is built from (41_huffman.md R162). -/
def fixedDistLengths : List Nat := List.replicate 32 5

end Sys2Proof.Machine
end

