-- ==== Sys2Proof/Syntax.lean ====
section
/-! DEFINITION. The stream elements of 30_encoding.md: the twelve formats (R82) and one constructor of `Instr` for each
row of spec/opcode_table.json (R88). An element's operands are its fields as the stream holds them, before their bias
(R86). A Huffman-coded element also carries `n`, the number of bits its code took: the step gets it from
`decodeSymbol` beside the symbol (10_state.md R41), since the same symbol has codes of different lengths in different
trees (R87; log entry 23). -/

namespace Sys2Proof

/-- The element formats of 30_encoding.md R82. -/
inductive Format where
  | f1 | f2 | sh32 | b8 | z0 | f5h | f5d | f4 | f3 | clsym | llsym | dsym
  deriving DecidableEq, Repr

/-- The element kinds of 30_encoding.md R88, one constructor per row of the opcode table. -/
inductive Instr where
  /-- BFINAL, format F1: the `bfinal` bit of a block header (R241). -/
  | bfinal (bfinal : BitVec 1)
  /-- BTYPE_STORED, format F2, field value 0 (R242). -/
  | btypeStored
  /-- BTYPE_FIXED, format F2, field value 1 (R242). -/
  | btypeFixed
  /-- BTYPE_DYNAMIC, format F2, field value 2 (R242). -/
  | btypeDynamic
  /-- BTYPE_RESERVED, format F2, field value 3 (R243). -/
  | btypeReserved
  /-- STORED_HDR, format SH32: LEN and NLEN after the pad, whose bits have any value (R244, R84). -/
  | storedHdr (len nlen : BitVec 16)
  /-- STORED_BYTE, format B8: one data byte (R246). -/
  | storedByte (byte : BitVec 8)
  /-- STORED_END, format Z0: no bits (R247). -/
  | storedEnd
  /-- HLIT, format F5H, field values 0..29 (R180). -/
  | hlit (hlit5 : BitVec 5)
  /-- HLIT_RESERVED, format F5H, field values 30 and 31, whose bit 0 is `low` (R180). -/
  | hlitReserved (low : BitVec 1)
  /-- HDIST, format F5D (R181). -/
  | hdist (hdist5 : BitVec 5)
  /-- HCLEN, format F4 (R182). -/
  | hclen (hclen4 : BitVec 4)
  /-- CLLEN, format F3: the code length of code-length symbol `ORDER[CLI]` (R183). -/
  | cllen (clen : BitVec 3)
  /-- CL_LEN, format CLSYM, symbols 0..15: the code length itself (R186). -/
  | clLen (n : Nat) (len : BitVec 4)
  /-- CL_REP_PREV, format CLSYM, symbol 16 (R187). -/
  | clRepPrev (n : Nat) (rep : BitVec 2)
  /-- CL_ZERO_SHORT, format CLSYM, symbol 17 (R188). -/
  | clZeroShort (n : Nat) (rep : BitVec 3)
  /-- CL_ZERO_LONG, format CLSYM, symbol 18 (R189). -/
  | clZeroLong (n : Nat) (rep : BitVec 7)
  /-- LIT, format LLSYM, symbols 0..255 (R211). -/
  | lit (n : Nat) (byte : BitVec 8)
  /-- EOB, format LLSYM, symbol 256 (R212). -/
  | eob (n : Nat)
  /-- LEN_257, format LLSYM, symbol 257 and 0 extra bits (R214, R215). -/
  | len257 (n : Nat)
  /-- LEN_258, format LLSYM, symbol 258 and 0 extra bits (R214, R215). -/
  | len258 (n : Nat)
  /-- LEN_259, format LLSYM, symbol 259 and 0 extra bits (R214, R215). -/
  | len259 (n : Nat)
  /-- LEN_260, format LLSYM, symbol 260 and 0 extra bits (R214, R215). -/
  | len260 (n : Nat)
  /-- LEN_261, format LLSYM, symbol 261 and 0 extra bits (R214, R215). -/
  | len261 (n : Nat)
  /-- LEN_262, format LLSYM, symbol 262 and 0 extra bits (R214, R215). -/
  | len262 (n : Nat)
  /-- LEN_263, format LLSYM, symbol 263 and 0 extra bits (R214, R215). -/
  | len263 (n : Nat)
  /-- LEN_264, format LLSYM, symbol 264 and 0 extra bits (R214, R215). -/
  | len264 (n : Nat)
  /-- LEN_265, format LLSYM, symbol 265 and 1 extra bits (R214, R215). -/
  | len265 (n : Nat) (lext : BitVec 1)
  /-- LEN_266, format LLSYM, symbol 266 and 1 extra bits (R214, R215). -/
  | len266 (n : Nat) (lext : BitVec 1)
  /-- LEN_267, format LLSYM, symbol 267 and 1 extra bits (R214, R215). -/
  | len267 (n : Nat) (lext : BitVec 1)
  /-- LEN_268, format LLSYM, symbol 268 and 1 extra bits (R214, R215). -/
  | len268 (n : Nat) (lext : BitVec 1)
  /-- LEN_269, format LLSYM, symbol 269 and 2 extra bits (R214, R215). -/
  | len269 (n : Nat) (lext : BitVec 2)
  /-- LEN_270, format LLSYM, symbol 270 and 2 extra bits (R214, R215). -/
  | len270 (n : Nat) (lext : BitVec 2)
  /-- LEN_271, format LLSYM, symbol 271 and 2 extra bits (R214, R215). -/
  | len271 (n : Nat) (lext : BitVec 2)
  /-- LEN_272, format LLSYM, symbol 272 and 2 extra bits (R214, R215). -/
  | len272 (n : Nat) (lext : BitVec 2)
  /-- LEN_273, format LLSYM, symbol 273 and 3 extra bits (R214, R215). -/
  | len273 (n : Nat) (lext : BitVec 3)
  /-- LEN_274, format LLSYM, symbol 274 and 3 extra bits (R214, R215). -/
  | len274 (n : Nat) (lext : BitVec 3)
  /-- LEN_275, format LLSYM, symbol 275 and 3 extra bits (R214, R215). -/
  | len275 (n : Nat) (lext : BitVec 3)
  /-- LEN_276, format LLSYM, symbol 276 and 3 extra bits (R214, R215). -/
  | len276 (n : Nat) (lext : BitVec 3)
  /-- LEN_277, format LLSYM, symbol 277 and 4 extra bits (R214, R215). -/
  | len277 (n : Nat) (lext : BitVec 4)
  /-- LEN_278, format LLSYM, symbol 278 and 4 extra bits (R214, R215). -/
  | len278 (n : Nat) (lext : BitVec 4)
  /-- LEN_279, format LLSYM, symbol 279 and 4 extra bits (R214, R215). -/
  | len279 (n : Nat) (lext : BitVec 4)
  /-- LEN_280, format LLSYM, symbol 280 and 4 extra bits (R214, R215). -/
  | len280 (n : Nat) (lext : BitVec 4)
  /-- LEN_281, format LLSYM, symbol 281 and 5 extra bits (R214, R215). -/
  | len281 (n : Nat) (lext : BitVec 5)
  /-- LEN_282, format LLSYM, symbol 282 and 5 extra bits (R214, R215). -/
  | len282 (n : Nat) (lext : BitVec 5)
  /-- LEN_283, format LLSYM, symbol 283 and 5 extra bits (R214, R215). -/
  | len283 (n : Nat) (lext : BitVec 5)
  /-- LEN_284, format LLSYM, symbol 284 and 5 extra bits (R214, R215). -/
  | len284 (n : Nat) (lext : BitVec 5)
  /-- LEN_285, format LLSYM, symbol 285 and 0 extra bits (R214, R215). -/
  | len285 (n : Nat)
  /-- LITLEN_RESERVED_286, format LLSYM, symbol 286 (R213). -/
  | litlenReserved286 (n : Nat)
  /-- LITLEN_RESERVED_287, format LLSYM, symbol 287 (R213). -/
  | litlenReserved287 (n : Nat)
  /-- DIST_0, format DSYM, symbol 0 and 0 extra bits (R216, R217). -/
  | dist0 (n : Nat)
  /-- DIST_1, format DSYM, symbol 1 and 0 extra bits (R216, R217). -/
  | dist1 (n : Nat)
  /-- DIST_2, format DSYM, symbol 2 and 0 extra bits (R216, R217). -/
  | dist2 (n : Nat)
  /-- DIST_3, format DSYM, symbol 3 and 0 extra bits (R216, R217). -/
  | dist3 (n : Nat)
  /-- DIST_4, format DSYM, symbol 4 and 1 extra bits (R216, R217). -/
  | dist4 (n : Nat) (dext : BitVec 1)
  /-- DIST_5, format DSYM, symbol 5 and 1 extra bits (R216, R217). -/
  | dist5 (n : Nat) (dext : BitVec 1)
  /-- DIST_6, format DSYM, symbol 6 and 2 extra bits (R216, R217). -/
  | dist6 (n : Nat) (dext : BitVec 2)
  /-- DIST_7, format DSYM, symbol 7 and 2 extra bits (R216, R217). -/
  | dist7 (n : Nat) (dext : BitVec 2)
  /-- DIST_8, format DSYM, symbol 8 and 3 extra bits (R216, R217). -/
  | dist8 (n : Nat) (dext : BitVec 3)
  /-- DIST_9, format DSYM, symbol 9 and 3 extra bits (R216, R217). -/
  | dist9 (n : Nat) (dext : BitVec 3)
  /-- DIST_10, format DSYM, symbol 10 and 4 extra bits (R216, R217). -/
  | dist10 (n : Nat) (dext : BitVec 4)
  /-- DIST_11, format DSYM, symbol 11 and 4 extra bits (R216, R217). -/
  | dist11 (n : Nat) (dext : BitVec 4)
  /-- DIST_12, format DSYM, symbol 12 and 5 extra bits (R216, R217). -/
  | dist12 (n : Nat) (dext : BitVec 5)
  /-- DIST_13, format DSYM, symbol 13 and 5 extra bits (R216, R217). -/
  | dist13 (n : Nat) (dext : BitVec 5)
  /-- DIST_14, format DSYM, symbol 14 and 6 extra bits (R216, R217). -/
  | dist14 (n : Nat) (dext : BitVec 6)
  /-- DIST_15, format DSYM, symbol 15 and 6 extra bits (R216, R217). -/
  | dist15 (n : Nat) (dext : BitVec 6)
  /-- DIST_16, format DSYM, symbol 16 and 7 extra bits (R216, R217). -/
  | dist16 (n : Nat) (dext : BitVec 7)
  /-- DIST_17, format DSYM, symbol 17 and 7 extra bits (R216, R217). -/
  | dist17 (n : Nat) (dext : BitVec 7)
  /-- DIST_18, format DSYM, symbol 18 and 8 extra bits (R216, R217). -/
  | dist18 (n : Nat) (dext : BitVec 8)
  /-- DIST_19, format DSYM, symbol 19 and 8 extra bits (R216, R217). -/
  | dist19 (n : Nat) (dext : BitVec 8)
  /-- DIST_20, format DSYM, symbol 20 and 9 extra bits (R216, R217). -/
  | dist20 (n : Nat) (dext : BitVec 9)
  /-- DIST_21, format DSYM, symbol 21 and 9 extra bits (R216, R217). -/
  | dist21 (n : Nat) (dext : BitVec 9)
  /-- DIST_22, format DSYM, symbol 22 and 10 extra bits (R216, R217). -/
  | dist22 (n : Nat) (dext : BitVec 10)
  /-- DIST_23, format DSYM, symbol 23 and 10 extra bits (R216, R217). -/
  | dist23 (n : Nat) (dext : BitVec 10)
  /-- DIST_24, format DSYM, symbol 24 and 11 extra bits (R216, R217). -/
  | dist24 (n : Nat) (dext : BitVec 11)
  /-- DIST_25, format DSYM, symbol 25 and 11 extra bits (R216, R217). -/
  | dist25 (n : Nat) (dext : BitVec 11)
  /-- DIST_26, format DSYM, symbol 26 and 12 extra bits (R216, R217). -/
  | dist26 (n : Nat) (dext : BitVec 12)
  /-- DIST_27, format DSYM, symbol 27 and 12 extra bits (R216, R217). -/
  | dist27 (n : Nat) (dext : BitVec 12)
  /-- DIST_28, format DSYM, symbol 28 and 13 extra bits (R216, R217). -/
  | dist28 (n : Nat) (dext : BitVec 13)
  /-- DIST_29, format DSYM, symbol 29 and 13 extra bits (R216, R217). -/
  | dist29 (n : Nat) (dext : BitVec 13)
  /-- DIST_RESERVED_30, format DSYM, symbol 30 (R216). -/
  | distReserved30 (n : Nat)
  /-- DIST_RESERVED_31, format DSYM, symbol 31 (R216). -/
  | distReserved31 (n : Nat)
  deriving DecidableEq, Repr

/-- The format of an element (30_encoding.md R88). -/
def Instr.format : Instr → Format
  | .bfinal _ => .f1
  | .btypeStored => .f2
  | .btypeFixed => .f2
  | .btypeDynamic => .f2
  | .btypeReserved => .f2
  | .storedHdr _ _ => .sh32
  | .storedByte _ => .b8
  | .storedEnd => .z0
  | .hlit _ => .f5h
  | .hlitReserved _ => .f5h
  | .hdist _ => .f5d
  | .hclen _ => .f4
  | .cllen _ => .f3
  | .clLen _ _ => .clsym
  | .clRepPrev _ _ => .clsym
  | .clZeroShort _ _ => .clsym
  | .clZeroLong _ _ => .clsym
  | .lit _ _ => .llsym
  | .eob _ => .llsym
  | .len257 _ => .llsym
  | .len258 _ => .llsym
  | .len259 _ => .llsym
  | .len260 _ => .llsym
  | .len261 _ => .llsym
  | .len262 _ => .llsym
  | .len263 _ => .llsym
  | .len264 _ => .llsym
  | .len265 _ _ => .llsym
  | .len266 _ _ => .llsym
  | .len267 _ _ => .llsym
  | .len268 _ _ => .llsym
  | .len269 _ _ => .llsym
  | .len270 _ _ => .llsym
  | .len271 _ _ => .llsym
  | .len272 _ _ => .llsym
  | .len273 _ _ => .llsym
  | .len274 _ _ => .llsym
  | .len275 _ _ => .llsym
  | .len276 _ _ => .llsym
  | .len277 _ _ => .llsym
  | .len278 _ _ => .llsym
  | .len279 _ _ => .llsym
  | .len280 _ _ => .llsym
  | .len281 _ _ => .llsym
  | .len282 _ _ => .llsym
  | .len283 _ _ => .llsym
  | .len284 _ _ => .llsym
  | .len285 _ => .llsym
  | .litlenReserved286 _ => .llsym
  | .litlenReserved287 _ => .llsym
  | .dist0 _ => .dsym
  | .dist1 _ => .dsym
  | .dist2 _ => .dsym
  | .dist3 _ => .dsym
  | .dist4 _ _ => .dsym
  | .dist5 _ _ => .dsym
  | .dist6 _ _ => .dsym
  | .dist7 _ _ => .dsym
  | .dist8 _ _ => .dsym
  | .dist9 _ _ => .dsym
  | .dist10 _ _ => .dsym
  | .dist11 _ _ => .dsym
  | .dist12 _ _ => .dsym
  | .dist13 _ _ => .dsym
  | .dist14 _ _ => .dsym
  | .dist15 _ _ => .dsym
  | .dist16 _ _ => .dsym
  | .dist17 _ _ => .dsym
  | .dist18 _ _ => .dsym
  | .dist19 _ _ => .dsym
  | .dist20 _ _ => .dsym
  | .dist21 _ _ => .dsym
  | .dist22 _ _ => .dsym
  | .dist23 _ _ => .dsym
  | .dist24 _ _ => .dsym
  | .dist25 _ _ => .dsym
  | .dist26 _ _ => .dsym
  | .dist27 _ _ => .dsym
  | .dist28 _ _ => .dsym
  | .dist29 _ _ => .dsym
  | .distReserved30 _ => .dsym
  | .distReserved31 _ => .dsym

end Sys2Proof
end

