-- ==== Sys2Proof/WellFormed.lean ====
section
/-! DEFINITION. When an element is well formed: its operands are values its row of 30_encoding.md R88 can hold. -/

namespace Sys2Proof

/-- A Huffman code has 1 to 15 bits (30_encoding.md R81). -/
def codeLenOk (n : Nat) : Bool := decide (1 ≤ n) && decide (n ≤ 15)

/-- The checks on an element's operands. The operand widths are in the types of `Instr`; what is left is the length of
a code (R81) and the HLIT field, whose values 30 and 31 are the row HLIT_RESERVED (R88). -/
def Instr.wellFormed : Instr → Bool
  | .bfinal _ => true
  | .btypeStored => true
  | .btypeFixed => true
  | .btypeDynamic => true
  | .btypeReserved => true
  | .storedHdr _ _ => true
  | .storedByte _ => true
  | .storedEnd => true
  | .hlit hlit5 => decide (hlit5.toNat < 30)
  | .hlitReserved _ => true
  | .hdist _ => true
  | .hclen _ => true
  | .cllen _ => true
  | .clLen n _ => codeLenOk n
  | .clRepPrev n _ => codeLenOk n
  | .clZeroShort n _ => codeLenOk n
  | .clZeroLong n _ => codeLenOk n
  | .lit n _ => codeLenOk n
  | .eob n => codeLenOk n
  | .len257 n => codeLenOk n
  | .len258 n => codeLenOk n
  | .len259 n => codeLenOk n
  | .len260 n => codeLenOk n
  | .len261 n => codeLenOk n
  | .len262 n => codeLenOk n
  | .len263 n => codeLenOk n
  | .len264 n => codeLenOk n
  | .len265 n _ => codeLenOk n
  | .len266 n _ => codeLenOk n
  | .len267 n _ => codeLenOk n
  | .len268 n _ => codeLenOk n
  | .len269 n _ => codeLenOk n
  | .len270 n _ => codeLenOk n
  | .len271 n _ => codeLenOk n
  | .len272 n _ => codeLenOk n
  | .len273 n _ => codeLenOk n
  | .len274 n _ => codeLenOk n
  | .len275 n _ => codeLenOk n
  | .len276 n _ => codeLenOk n
  | .len277 n _ => codeLenOk n
  | .len278 n _ => codeLenOk n
  | .len279 n _ => codeLenOk n
  | .len280 n _ => codeLenOk n
  | .len281 n _ => codeLenOk n
  | .len282 n _ => codeLenOk n
  | .len283 n _ => codeLenOk n
  | .len284 n _ => codeLenOk n
  | .len285 n => codeLenOk n
  | .litlenReserved286 n => codeLenOk n
  | .litlenReserved287 n => codeLenOk n
  | .dist0 n => codeLenOk n
  | .dist1 n => codeLenOk n
  | .dist2 n => codeLenOk n
  | .dist3 n => codeLenOk n
  | .dist4 n _ => codeLenOk n
  | .dist5 n _ => codeLenOk n
  | .dist6 n _ => codeLenOk n
  | .dist7 n _ => codeLenOk n
  | .dist8 n _ => codeLenOk n
  | .dist9 n _ => codeLenOk n
  | .dist10 n _ => codeLenOk n
  | .dist11 n _ => codeLenOk n
  | .dist12 n _ => codeLenOk n
  | .dist13 n _ => codeLenOk n
  | .dist14 n _ => codeLenOk n
  | .dist15 n _ => codeLenOk n
  | .dist16 n _ => codeLenOk n
  | .dist17 n _ => codeLenOk n
  | .dist18 n _ => codeLenOk n
  | .dist19 n _ => codeLenOk n
  | .dist20 n _ => codeLenOk n
  | .dist21 n _ => codeLenOk n
  | .dist22 n _ => codeLenOk n
  | .dist23 n _ => codeLenOk n
  | .dist24 n _ => codeLenOk n
  | .dist25 n _ => codeLenOk n
  | .dist26 n _ => codeLenOk n
  | .dist27 n _ => codeLenOk n
  | .dist28 n _ => codeLenOk n
  | .dist29 n _ => codeLenOk n
  | .distReserved30 n => codeLenOk n
  | .distReserved31 n => codeLenOk n

end Sys2Proof
end

