-- ==== Sys2Proof/Decode.lean ====
section
/-! DEFINITION. The decoder, total on any bits and rejecting by name, and after it the encoder, both written from the
formats of 30_encoding.md R82 and the map of R88. Which format applies is a function of the phase alone (R80); the
trees, the alignment of P and whether a length has been set come from the context (R93). -/

namespace Sys2Proof

open Sys2Proof.Machine

/-- What, beside the format, fixes how stream bits decode (30_encoding.md R93). -/
structure DecodeCtx where
  /-- `P mod 8` at the element start, from which the pad of a stored header follows (R84). -/
  align : Nat
  /-- The code-length tree CLT (42_dynamic_trees.md R185). -/
  clt : Tree
  /-- The active literal/length tree (43_block_body.md R210). -/
  lit : Tree
  /-- The active distance tree (43_block_body.md R216). -/
  dist : Tree
  /-- `NUM = 0`: symbol 16 has no previous length (42_dynamic_trees.md R187). -/
  noPrevious : Bool
  deriving DecidableEq, Repr

/-- An element and the bits after it, or the reason there is none. -/
abbrev Decoded := Except DecodeError (Instr × List Bool)

/-- Read a field of `w` bits (40_bitcursor.md R123) and go on; a field of 0 bits reads nothing (R124). -/
def takeField (w : Nat) (bits : List Bool) (k : BitVec w → List Bool → Decoded) : Decoded :=
  if bits.length < w then .error .truncated
  else k (BitVec.ofNat w (bitsToNat (bits.take w))) (bits.drop w)

/-- Read a code over `t` (41_huffman.md R155) and go on with its symbol and its length. -/
def takeCode (t : Tree) (bits : List Bool) (k : Nat → Nat → List Bool → Decoded) : Decoded :=
  match decodeSymbol t bits with
  | .error e => .error e
  | .ok (sym, n, rest) => k sym n rest

/-- The block type of a field value (30_encoding.md R88, format F2). -/
def decodeBtype (v : Nat) : Instr :=
  match v with
  | 0 => .btypeStored
  | 1 => .btypeFixed
  | 2 => .btypeDynamic
  | _ => .btypeReserved

/-- The element of a code-length symbol (30_encoding.md R88, format CLSYM). Symbol 16 with no previous length stops
before its extra bits are read (42_dynamic_trees.md R187). -/
def decodeCodeLength (noPrevious : Bool) (sym n : Nat) (rest : List Bool) : Decoded :=
  if sym < 16 then .ok (.clLen n (BitVec.ofNat 4 sym), rest)
  else match sym with
  | 16 => if noPrevious then .error .noPreviousLength
          else takeField 2 rest fun v r => .ok (.clRepPrev n v, r)
  | 17 => takeField 3 rest fun v r => .ok (.clZeroShort n v, r)
  | 18 => takeField 7 rest fun v r => .ok (.clZeroLong n v, r)
  | _ => .error .noTableEntry

/-- The element of a literal/length symbol (30_encoding.md R88, format LLSYM). A length symbol takes its extra bits
(43_block_body.md R215); the DSYM after them is an element of its own here. -/
def decodeLitLen (sym n : Nat) (rest : List Bool) : Decoded :=
  if sym < 256 then .ok (.lit n (BitVec.ofNat 8 sym), rest)
  else match sym with
  | 256 => .ok (.eob n, rest)
  | 257 => .ok (.len257 n, rest)
  | 258 => .ok (.len258 n, rest)
  | 259 => .ok (.len259 n, rest)
  | 260 => .ok (.len260 n, rest)
  | 261 => .ok (.len261 n, rest)
  | 262 => .ok (.len262 n, rest)
  | 263 => .ok (.len263 n, rest)
  | 264 => .ok (.len264 n, rest)
  | 265 => takeField 1 rest fun v r => .ok (.len265 n v, r)
  | 266 => takeField 1 rest fun v r => .ok (.len266 n v, r)
  | 267 => takeField 1 rest fun v r => .ok (.len267 n v, r)
  | 268 => takeField 1 rest fun v r => .ok (.len268 n v, r)
  | 269 => takeField 2 rest fun v r => .ok (.len269 n v, r)
  | 270 => takeField 2 rest fun v r => .ok (.len270 n v, r)
  | 271 => takeField 2 rest fun v r => .ok (.len271 n v, r)
  | 272 => takeField 2 rest fun v r => .ok (.len272 n v, r)
  | 273 => takeField 3 rest fun v r => .ok (.len273 n v, r)
  | 274 => takeField 3 rest fun v r => .ok (.len274 n v, r)
  | 275 => takeField 3 rest fun v r => .ok (.len275 n v, r)
  | 276 => takeField 3 rest fun v r => .ok (.len276 n v, r)
  | 277 => takeField 4 rest fun v r => .ok (.len277 n v, r)
  | 278 => takeField 4 rest fun v r => .ok (.len278 n v, r)
  | 279 => takeField 4 rest fun v r => .ok (.len279 n v, r)
  | 280 => takeField 4 rest fun v r => .ok (.len280 n v, r)
  | 281 => takeField 5 rest fun v r => .ok (.len281 n v, r)
  | 282 => takeField 5 rest fun v r => .ok (.len282 n v, r)
  | 283 => takeField 5 rest fun v r => .ok (.len283 n v, r)
  | 284 => takeField 5 rest fun v r => .ok (.len284 n v, r)
  | 285 => .ok (.len285 n, rest)
  | 286 => .ok (.litlenReserved286 n, rest)
  | 287 => .ok (.litlenReserved287 n, rest)
  | _ => .error .noTableEntry

/-- The element of a distance symbol (30_encoding.md R88, format DSYM), with its extra bits (43_block_body.md R217).
The reserved symbols read none (R216). -/
def decodeDistance (sym n : Nat) (rest : List Bool) : Decoded :=
  match sym with
  | 0 => .ok (.dist0 n, rest)
  | 1 => .ok (.dist1 n, rest)
  | 2 => .ok (.dist2 n, rest)
  | 3 => .ok (.dist3 n, rest)
  | 4 => takeField 1 rest fun v r => .ok (.dist4 n v, r)
  | 5 => takeField 1 rest fun v r => .ok (.dist5 n v, r)
  | 6 => takeField 2 rest fun v r => .ok (.dist6 n v, r)
  | 7 => takeField 2 rest fun v r => .ok (.dist7 n v, r)
  | 8 => takeField 3 rest fun v r => .ok (.dist8 n v, r)
  | 9 => takeField 3 rest fun v r => .ok (.dist9 n v, r)
  | 10 => takeField 4 rest fun v r => .ok (.dist10 n v, r)
  | 11 => takeField 4 rest fun v r => .ok (.dist11 n v, r)
  | 12 => takeField 5 rest fun v r => .ok (.dist12 n v, r)
  | 13 => takeField 5 rest fun v r => .ok (.dist13 n v, r)
  | 14 => takeField 6 rest fun v r => .ok (.dist14 n v, r)
  | 15 => takeField 6 rest fun v r => .ok (.dist15 n v, r)
  | 16 => takeField 7 rest fun v r => .ok (.dist16 n v, r)
  | 17 => takeField 7 rest fun v r => .ok (.dist17 n v, r)
  | 18 => takeField 8 rest fun v r => .ok (.dist18 n v, r)
  | 19 => takeField 8 rest fun v r => .ok (.dist19 n v, r)
  | 20 => takeField 9 rest fun v r => .ok (.dist20 n v, r)
  | 21 => takeField 9 rest fun v r => .ok (.dist21 n v, r)
  | 22 => takeField 10 rest fun v r => .ok (.dist22 n v, r)
  | 23 => takeField 10 rest fun v r => .ok (.dist23 n v, r)
  | 24 => takeField 11 rest fun v r => .ok (.dist24 n v, r)
  | 25 => takeField 11 rest fun v r => .ok (.dist25 n v, r)
  | 26 => takeField 12 rest fun v r => .ok (.dist26 n v, r)
  | 27 => takeField 12 rest fun v r => .ok (.dist27 n v, r)
  | 28 => takeField 13 rest fun v r => .ok (.dist28 n v, r)
  | 29 => takeField 13 rest fun v r => .ok (.dist29 n v, r)
  | 30 => .ok (.distReserved30 n, rest)
  | 31 => .ok (.distReserved31 n, rest)
  | _ => .error .noTableEntry

/-- Decode one element of a format from the stream bits that start at the element start (30_encoding.md R82, R88). -/
def decode (f : Format) (c : DecodeCtx) (bits : List Bool) : Decoded :=
  match f with
  | .f1 => takeField 1 bits fun v r => .ok (.bfinal v, r)
  | .f2 => takeField 2 bits fun v r => .ok (decodeBtype v.toNat, r)
  | .sh32 =>
    if bits.length < padOf c.align then .error .truncated
    else takeField 16 (bits.drop (padOf c.align)) fun len r =>
      takeField 16 r fun nlen r' => .ok (.storedHdr len nlen, r')
  | .b8 => takeField 8 bits fun v r => .ok (.storedByte v, r)
  | .z0 => .ok (.storedEnd, bits)
  | .f5h => takeField 5 bits fun v r =>
      if v.toNat < 30 then .ok (.hlit v, r) else .ok (.hlitReserved (v.setWidth 1), r)
  | .f5d => takeField 5 bits fun v r => .ok (.hdist v, r)
  | .f4 => takeField 4 bits fun v r => .ok (.hclen v, r)
  | .f3 => takeField 3 bits fun v r => .ok (.cllen v, r)
  | .clsym => takeCode c.clt bits (decodeCodeLength c.noPrevious)
  | .llsym => takeCode c.lit bits decodeLitLen
  | .dsym => takeCode c.dist bits decodeDistance

/-! ## The encoder -/

/-- The code of symbol `sym`, `n` bits long, and then an extra-bits field. -/
def codeThen (t : Tree) (n sym : Nat) (extra : List Bool) : Option (List Bool) :=
  (encodeSymbol t n sym).map (· ++ extra)

/-- The stream bits of an element (30_encoding.md R82, R88). A Huffman-coded element has bits only where the tree gives
its symbol a code of its length. The pad of a stored header is written as zeros; R91 lets it be anything. -/
def encode (c : DecodeCtx) : Instr → Option (List Bool)
  | .bfinal bfinal => some (fieldBits bfinal)
  | .btypeStored => some (natBits 2 0)
  | .btypeFixed => some (natBits 2 1)
  | .btypeDynamic => some (natBits 2 2)
  | .btypeReserved => some (natBits 2 3)
  | .storedHdr len nlen => some (List.replicate (padOf c.align) false ++ (fieldBits len ++ fieldBits nlen))
  | .storedByte byte => some (fieldBits byte)
  | .storedEnd => some []
  | .hlit hlit5 => some (fieldBits hlit5)
  | .hlitReserved low => some (natBits 5 (30 + low.toNat))
  | .hdist hdist5 => some (fieldBits hdist5)
  | .hclen hclen4 => some (fieldBits hclen4)
  | .cllen clen => some (fieldBits clen)
  | .clLen n len => codeThen c.clt n len.toNat []
  | .clRepPrev n rep => codeThen c.clt n 16 (fieldBits rep)
  | .clZeroShort n rep => codeThen c.clt n 17 (fieldBits rep)
  | .clZeroLong n rep => codeThen c.clt n 18 (fieldBits rep)
  | .lit n byte => codeThen c.lit n byte.toNat []
  | .eob n => codeThen c.lit n 256 []
  | .len257 n => codeThen c.lit n 257 []
  | .len258 n => codeThen c.lit n 258 []
  | .len259 n => codeThen c.lit n 259 []
  | .len260 n => codeThen c.lit n 260 []
  | .len261 n => codeThen c.lit n 261 []
  | .len262 n => codeThen c.lit n 262 []
  | .len263 n => codeThen c.lit n 263 []
  | .len264 n => codeThen c.lit n 264 []
  | .len265 n lext => codeThen c.lit n 265 (fieldBits lext)
  | .len266 n lext => codeThen c.lit n 266 (fieldBits lext)
  | .len267 n lext => codeThen c.lit n 267 (fieldBits lext)
  | .len268 n lext => codeThen c.lit n 268 (fieldBits lext)
  | .len269 n lext => codeThen c.lit n 269 (fieldBits lext)
  | .len270 n lext => codeThen c.lit n 270 (fieldBits lext)
  | .len271 n lext => codeThen c.lit n 271 (fieldBits lext)
  | .len272 n lext => codeThen c.lit n 272 (fieldBits lext)
  | .len273 n lext => codeThen c.lit n 273 (fieldBits lext)
  | .len274 n lext => codeThen c.lit n 274 (fieldBits lext)
  | .len275 n lext => codeThen c.lit n 275 (fieldBits lext)
  | .len276 n lext => codeThen c.lit n 276 (fieldBits lext)
  | .len277 n lext => codeThen c.lit n 277 (fieldBits lext)
  | .len278 n lext => codeThen c.lit n 278 (fieldBits lext)
  | .len279 n lext => codeThen c.lit n 279 (fieldBits lext)
  | .len280 n lext => codeThen c.lit n 280 (fieldBits lext)
  | .len281 n lext => codeThen c.lit n 281 (fieldBits lext)
  | .len282 n lext => codeThen c.lit n 282 (fieldBits lext)
  | .len283 n lext => codeThen c.lit n 283 (fieldBits lext)
  | .len284 n lext => codeThen c.lit n 284 (fieldBits lext)
  | .len285 n => codeThen c.lit n 285 []
  | .litlenReserved286 n => codeThen c.lit n 286 []
  | .litlenReserved287 n => codeThen c.lit n 287 []
  | .dist0 n => codeThen c.dist n 0 []
  | .dist1 n => codeThen c.dist n 1 []
  | .dist2 n => codeThen c.dist n 2 []
  | .dist3 n => codeThen c.dist n 3 []
  | .dist4 n dext => codeThen c.dist n 4 (fieldBits dext)
  | .dist5 n dext => codeThen c.dist n 5 (fieldBits dext)
  | .dist6 n dext => codeThen c.dist n 6 (fieldBits dext)
  | .dist7 n dext => codeThen c.dist n 7 (fieldBits dext)
  | .dist8 n dext => codeThen c.dist n 8 (fieldBits dext)
  | .dist9 n dext => codeThen c.dist n 9 (fieldBits dext)
  | .dist10 n dext => codeThen c.dist n 10 (fieldBits dext)
  | .dist11 n dext => codeThen c.dist n 11 (fieldBits dext)
  | .dist12 n dext => codeThen c.dist n 12 (fieldBits dext)
  | .dist13 n dext => codeThen c.dist n 13 (fieldBits dext)
  | .dist14 n dext => codeThen c.dist n 14 (fieldBits dext)
  | .dist15 n dext => codeThen c.dist n 15 (fieldBits dext)
  | .dist16 n dext => codeThen c.dist n 16 (fieldBits dext)
  | .dist17 n dext => codeThen c.dist n 17 (fieldBits dext)
  | .dist18 n dext => codeThen c.dist n 18 (fieldBits dext)
  | .dist19 n dext => codeThen c.dist n 19 (fieldBits dext)
  | .dist20 n dext => codeThen c.dist n 20 (fieldBits dext)
  | .dist21 n dext => codeThen c.dist n 21 (fieldBits dext)
  | .dist22 n dext => codeThen c.dist n 22 (fieldBits dext)
  | .dist23 n dext => codeThen c.dist n 23 (fieldBits dext)
  | .dist24 n dext => codeThen c.dist n 24 (fieldBits dext)
  | .dist25 n dext => codeThen c.dist n 25 (fieldBits dext)
  | .dist26 n dext => codeThen c.dist n 26 (fieldBits dext)
  | .dist27 n dext => codeThen c.dist n 27 (fieldBits dext)
  | .dist28 n dext => codeThen c.dist n 28 (fieldBits dext)
  | .dist29 n dext => codeThen c.dist n 29 (fieldBits dext)
  | .distReserved30 n => codeThen c.dist n 30 []
  | .distReserved31 n => codeThen c.dist n 31 []

/-! ## The words of the opcode table

R88 applies a row's match and mask to the decoded symbol number of a code format and to the field value of a field
format, so a table word is such a number and not a piece of the stream; and formats share numbers, since the phase and
never the bits tells them apart (R80). A word is given the format of the FIRST row of the table, in the table's order,
whose match it is, among the rows with a mask (log entry 20). -/

/-- A CLT for table words: all nineteen code-length symbols have codes of 5 bits. -/
def tableClt : Tree := build (List.replicate 19 5)

/-- The context table words are decoded in: aligned, the fixed trees, `tableClt`, a previous length set. -/
def tableCtx : DecodeCtx :=
  { align := 0, clt := tableClt, lit := fixedLit, dist := fixedDist, noPrevious := false }

/-- The most bits an element has (45_trace.md R279 bounds a span by 48). -/
def longestElement : Nat := 48

/-- The code length of literal/length symbol `sym` in FLT (41_huffman.md R161). -/
def fixedLitLength (sym : Nat) : Nat := fixedLitLengths.getD sym 0

/-- The format a table word belongs to and the stream bits that stand for it, the extra bits zero. -/
def tableRow (nbits w : Nat) : Option (Format × List Bool) :=
  match nbits with
  | 0 => some (.z0, [])
  | 8 =>
    if w < 4 then some (.f2, natBits 2 w)
    else if 30 = w then some (.f5h, natBits 5 w)
    else if 16 ≤ w ∧ w ≤ 18 then (encodeSymbol tableClt 5 w).map fun b => (.clsym, b)
    else (encodeSymbol fixedDist 5 w).map fun b => (.dsym, b)
  | 16 => (encodeSymbol fixedLit (fixedLitLength w) w).map fun b => (.llsym, b)
  | 32 => some (.sh32, natBits 32 w)
  | _ => none

/-- The stream bits of a table word: what `tableRow` gives, then zeros up to the longest element. -/
def tableBits (bits : List Bool) : List Bool :=
  bits ++ List.replicate (longestElement - bits.length) false

/-- The instruction the decoder reads from a table word. -/
def decodeTableWord (nbits w : Nat) : Option Instr :=
  match tableRow nbits w with
  | none => none
  | some (f, bits) =>
    match decode f tableCtx (tableBits bits) with
    | .ok (i, _) => some i
    | .error _ => none

end Sys2Proof
end

