-- ==== Sys2Proof/Machine/State.lean ====
section
/-! DEFINITION. The engine's state as plain data: every register, latch, table memory and byte memory of 10_state.md,
the trace, and the model's own fields, each marked MODEL. The read-only tables FLT, FDT, LBITS, LBASE, DBITS, DBASE
and ORDER (R34 to R36) are constants in Machine/Tables.lean: no rule writes them (log entry 18). -/

namespace Sys2Proof.Machine

/-- A byte memory: its listed (index, byte) pairs, indices strictly rising and no listed byte equal to what an unlisted
index reads as (`Memory.wf`). -/
abbrev Memory := List Host.Cell

/-- What an unlisted index reads as. DESIGN CHOICE (log entry 1, unsafe): the spec calls SRC and DST unspecified after
reset (10_state.md R43); the model takes zero. -/
def Memory.unlisted : Byte := 0

/-- The canonical form of a memory. -/
abbrev Memory.wf (m : Memory) : Prop :=
  m.Pairwise (fun x y => x.1 < y.1) ∧ ∀ c ∈ m, c.2 ≠ Memory.unlisted

/-- PHASE, the state of the block-type machine (10_state.md R24). Encodings 14 and 15 are reserved and never entered,
and have no constructor. -/
inductive Phase where
  | idle | hdrBfinal | hdrBtype | storedHdr | storedData | storedEnd | dynHlit | dynHdist | dynHclen | dynCllen
  | dynLens | body | done | error
  deriving DecidableEq, Repr

/-- The error codes (60_exceptions.md R330). `notGzip` is reserved and never set by the engine (R331). -/
inductive ErrCode where
  | none | truncatedStream | invalidCode | invalidBlockType | blockLengthMismatch | invalidDistance | outputOverflow
  | invalidStream | notGzip
  deriving DecidableEq, Repr

/-- The buffered reader's own state (10_state.md R40): not architectural (40_bitcursor.md R131), kept here all the
same, since R43 gives it reset values and R303 resets it. -/
structure BitCursor where
  /-- SRCIDX: the index of the next source byte to load. -/
  srcIdx : Word
  /-- BITBUF: the buffered bits, the bit at P in bit 0. -/
  bitBuf : Word
  /-- BITCNT: how many bits are buffered, 0..31. -/
  bitCnt : BitVec 5
  deriving DecidableEq, Repr

/-- MODEL. The length part of a back-reference whose distance part has not run yet: what 43_block_body.md R214 has in
hand when it continues with R216. It is set and cleared within one engine step (log entry 4). -/
structure MatchPart where
  /-- `E`: the element start. -/
  start : Word
  /-- The length symbol, 257..285. -/
  sym : BitVec 9
  /-- `LE`: where the length's extra bits start. -/
  extraAt : Word
  /-- LBITS of the symbol. -/
  extraBits : BitVec 8
  /-- The match length, 3..258. -/
  length : BitVec 9
  deriving DecidableEq, Repr

/-- MODEL. A place in SRC or DST as the host names it: by the engine's index, or by a host address in the buffer's
window (00_scope.md R7; log entry 30). That a host address has 32 bits is the model's choice (log entry 31). -/
inductive HostPlace where
  | index (i : Nat)
  | address (a : Word)
  deriving DecidableEq, Repr

/-- MODEL. What comes from outside the engine (46_host_interface.md R300), as a list State holds (log entry 5). -/
inductive HostAct where
  /-- A write of `bytes` bytes to the register port at a host address (R301, R305). -/
  | regWrite (addr : Word) (bytes : Nat) (value : Word)
  /-- A read of `bytes` bytes from the register port at a host address (R301, R305). -/
  | regRead (addr : Word) (bytes : Nat)
  /-- The host places a byte in SRC (R310). -/
  | srcWrite (at_ : HostPlace) (value : Byte)
  /-- The host reads a byte of SRC. -/
  | srcRead (at_ : HostPlace)
  /-- The host places a byte in DST (20_memory.md R74). -/
  | dstWrite (at_ : HostPlace) (value : Byte)
  /-- The host reads a byte of DST (R310). -/
  | dstRead (at_ : HostPlace)
  /-- The consumer on the trace port starts or stops accepting records (45_trace.md R286). -/
  | traceReady (ready : Bool)
  /-- The reset input (70_reset_and_hazards.md R360), asserted and released in one act (log entry 32). -/
  | reset
  /-- The host does nothing while the engine takes one step. -/
  | engine
  deriving DecidableEq, Repr

/-- The engine. Register names are the spec's; each field's docstring cites the rule that names it. -/
structure State where
  /-- P, the bit position of the next unread bit: the program counter analogue (10_state.md R21). -/
  p : Word
  /-- OUTLEN, the bytes written to DST in the run (R23). -/
  outlen : Word
  /-- PHASE (R24). -/
  phase : Phase
  /-- BFINAL, the latch of the current block's `bfinal` (R25). -/
  bfinal : BitVec 1
  /-- BTYPE, the latch of the current block's `btype` (R26). -/
  btype : BitVec 2
  /-- ACTIVE: 0 the fixed trees, 1 the dynamic trees (R27). -/
  active : BitVec 1
  /-- HLIT, 257..286 once accepted (R28). -/
  hlit : BitVec 9
  /-- HDIST, 1..32 (R28). -/
  hdist : BitVec 6
  /-- HCLEN, 4..19 (R28). -/
  hclen : BitVec 5
  /-- CLI, the 3-bit code lengths read so far (R29). -/
  cli : BitVec 5
  /-- CLLEN[0..18] (R30). -/
  cllen : Vector (BitVec 3) 19
  /-- LENS[0..317] (R31). -/
  lens : Vector (BitVec 4) 318
  /-- NUM, the entries of LENS set so far (R31). -/
  num : BitVec 9
  /-- STORED_REM, the stored data bytes still to copy (R32). -/
  storedRem : BitVec 16
  /-- CLT, the code-length tree's table memory (R33). -/
  clt : CltTable
  /-- DLT, the dynamic literal/length tree's table memory (R33). -/
  dlt : DltTable
  /-- DDT, the dynamic distance tree's table memory (R33). -/
  ddt : DdtTable
  /-- ERRCODE (R37). ERR_POS is no register of its own: after a fault it is P. -/
  errcode : ErrCode
  /-- TRACE, the records the port has accepted in this run, oldest first (R38). -/
  trace : List TraceRecord
  /-- TRACE_COUNT (R38). -/
  traceCount : Word
  /-- SRCIDX, BITBUF, BITCNT (R40). -/
  cursor : BitCursor
  /-- SRC_LEN, the host's register (46_host_interface.md R302). -/
  srcLen : Word
  /-- DST_CAP, the host's register (46_host_interface.md R302). -/
  dstCap : Word
  /-- N, latched from SRC_LEN for the run by START (46_host_interface.md R303; log entry 3). -/
  runN : Word
  /-- C, latched from DST_CAP for the run by START (46_host_interface.md R303; log entry 3). -/
  runC : Word
  /-- SRC (R42; 20_memory.md R60). -/
  src : Memory
  /-- DST (R42; 20_memory.md R60). -/
  dst : Memory
  /-- MODEL. The length part of a back-reference in progress (log entry 4). -/
  matchPart : Option MatchPart
  /-- MODEL. Whether the consumer on the trace port accepts the next record (45_trace.md R286; log entry 6). -/
  traceReady : Bool
  /-- MODEL. What the host last read (log entry 17). -/
  readData : Word
  /-- MODEL. What the outside will do next, in order (log entry 5). -/
  host : List HostAct
  /-- MODEL. How many free values have been taken (log entry 27). -/
  freeCount : Nat
  deriving DecidableEq, Repr

/-- Why the machine stops with a fault. -/
inductive Fault where
  /-- Raised by a host access to SRC or DST (Machine/HostPort.lean) at an index no buffer has: SRC has at most
  SRC_MAX_BYTES bytes and DST at most DST_CAP_MAX (20_memory.md R60). Safe: the engine itself never makes one. -/
  | noSuchByte
  deriving DecidableEq, Repr

/-- Why the model gives a situation no meaning. -/
inductive Refusal where
  /-- An instruction whose arm has no meaning yet. Safe. No arm of `exec` answers it. -/
  | notModelled (mnemonic : String)
  /-- Raised by a step whose decode ends at a table entry that no build writes, or at a symbol no row has (30_encoding.md
  R90: "Some values can never be produced"). Safe: no run reaches it (`Safety.lean`). -/
  | noTableEntry
  /-- Raised by a DIST element that follows no length part (43_block_body.md R216 "continues rule R214"). Safe: the step
  decodes a DIST element only after a LEN element. -/
  | noLengthPart
  /-- Raised by a host access to a byte of SRC or DST while BUSY (20_memory.md R70, R74; 93_implementation_defined.md U5:
  "refuse. A model admits no host access to SRC or DST during a run"). Safe. -/
  | hostAccessWhileBusy
  /-- Raised by a register write that is not 32 bits wide or not aligned (46_host_interface.md R305;
  93_implementation_defined.md U6: "refuse for writes"). Safe. -/
  | registerAccessShape
  deriving DecidableEq, Repr

/-- The outcome of a step of the engine. -/
abbrev Res := Host.Outcome State Fault Refusal

/-- The machine right after reset (10_state.md R43; 70_reset_and_hazards.md R360). CLLEN, LENS, CLT, DLT and DDT are
unspecified after reset; the model takes zeros (DESIGN CHOICE, log entry 2). N and C of the run, the
read data and the free-value counter are zero (DESIGN CHOICE, log entries 3, 17, 27); the trace port's consumer is
ready (DESIGN CHOICE, log entry 6); nothing is placed in SRC or DST (log entry 1) and the outside has nothing to do. -/
def State.reset : State :=
  { p := 0, outlen := 0, phase := .idle, bfinal := 0, btype := 0, active := 0
    hlit := 0, hdist := 0, hclen := 0, cli := 0
    cllen := Vector.replicate 19 0, lens := Vector.replicate 318 0, num := 0, storedRem := 0
    clt := .blank, dlt := .blank, ddt := .blank
    errcode := .none, trace := [], traceCount := 0
    cursor := { srcIdx := 0, bitBuf := 0, bitCnt := 0 }
    srcLen := 0, dstCap := 0, runN := 0, runC := 0
    src := [], dst := []
    matchPart := none, traceReady := true, readData := 0, host := [], freeCount := 0 }

end Sys2Proof.Machine
end

