-- ==== Sys2Proof/Machine/Cursor.lean ====
section
/-! DEFINITION. SRC and DST as memories, the stream bits SRC holds, and the buffered reader of 40_bitcursor.md R128 to
R130. -/

namespace Sys2Proof.Machine

/-- The byte at index `a`. -/
def Memory.read : Memory → Nat → Byte
  | [], _ => Memory.unlisted
  | (k, b) :: rest, a => if k = a then b else Memory.read rest a

/-- Write byte `b` at index `a`, keeping the canonical form: a byte equal to what an unlisted index reads as is not
listed. -/
def Memory.write : Memory → Nat → Byte → Memory
  | [], a, b => if b = Memory.unlisted then [] else [(a, b)]
  | (k, c) :: rest, a, b =>
    if a < k then if b = Memory.unlisted then (k, c) :: rest else (a, b) :: (k, c) :: rest
    else if a = k then if b = Memory.unlisted then rest else (a, b) :: rest
    else (k, c) :: Memory.write rest a b

/-- `bit(p) = (SRC[p >> 3] >> (p & 7)) & 1` (40_bitcursor.md R120). -/
def streamBit (src : Memory) (p : Nat) : Bool := (src.read (p / 8)).getLsbD (p % 8)

/-- The stream bits at positions `p`, `p + 1`, .., `p + k - 1` (20_memory.md R65). -/
def streamBits (src : Memory) : (p k : Nat) → List Bool
  | _, 0 => []
  | p, k + 1 => streamBit src p :: streamBits src (p + 1) k

/-- One turn of the refill loop (40_bitcursor.md R128). -/
def BitCursor.load (src : Memory) (c : BitCursor) : BitCursor :=
  { srcIdx := c.srcIdx + 1
    bitBuf := c.bitBuf ||| ((src.read c.srcIdx.toNat).setWidth 32 <<< c.bitCnt.toNat)
    bitCnt := c.bitCnt + 8 }

/-- At most `turns` turns of the refill loop (40_bitcursor.md R128). -/
def BitCursor.refillLoop (src : Memory) (n : Nat) : Nat → BitCursor → BitCursor
  | 0, c => c
  | turns + 1, c =>
    if c.bitCnt.toNat < Config.refillThreshold ∧ c.srcIdx.toNat < n then
      BitCursor.refillLoop src n turns (c.load src)
    else c

/-- The refill before each read (40_bitcursor.md R128): three loads of 8 bits reach the threshold of 24. -/
def BitCursor.refill (src : Memory) (n : Nat) (c : BitCursor) : BitCursor := c.refillLoop src n 3

/-- The buffered read of `w` bits, `1 ≤ w ≤ 16` (40_bitcursor.md R129): nothing where fewer are left. -/
def BitCursor.read (src : Memory) (n w : Nat) (c : BitCursor) : Option (Word × BitCursor) :=
  let r := c.refill src n
  if r.bitCnt.toNat < w then none
  else some (r.bitBuf &&& BitVec.ofNat 32 (2 ^ w - 1),
    { r with bitBuf := r.bitBuf >>> w, bitCnt := r.bitCnt - BitVec.ofNat 5 w })

/-- What a read of `w` bits leaves of the buffered reader. A read of 0 bits does nothing (40_bitcursor.md R124). -/
def BitCursor.skip (src : Memory) (n : Nat) (c : BitCursor) (w : Nat) : BitCursor :=
  if w = 0 then c
  else match c.read src n w with
    | some (_, c') => c'
    | none => c.refill src n

/-- The alignment with its push-back (40_bitcursor.md R130): the partial byte is dropped, whole buffered bytes are
given back, and the buffer is emptied. -/
def BitCursor.align (c : BitCursor) : BitCursor :=
  { srcIdx := c.srcIdx - BitVec.ofNat 32 ((c.bitCnt.toNat - c.bitCnt.toNat % 8) / 8), bitBuf := 0, bitCnt := 0 }

end Sys2Proof.Machine
end

