-- ==== Sys2Proof/Machine/Operands.lean ====
section
/-! DEFINITION. Operand assembly (30_encoding.md R86): `base + field`, zero-extended and never scaled; and the operand
values the dynamic header is read with (42_dynamic_trees.md). -/

namespace Sys2Proof.Machine

/-- HLIT = hlit5 + 257 (42_dynamic_trees.md R180). -/
def hlitValue (hlit5 : BitVec 5) : BitVec 9 := BitVec.ofNat 9 (257 + hlit5.toNat)

/-- HDIST = hdist5 + 1 (42_dynamic_trees.md R181). -/
def hdistValue (hdist5 : BitVec 5) : BitVec 6 := BitVec.ofNat 6 (1 + hdist5.toNat)

/-- HCLEN = hclen4 + 4 (42_dynamic_trees.md R182). -/
def hclenValue (hclen4 : BitVec 4) : BitVec 5 := BitVec.ofNat 5 (4 + hclen4.toNat)

/-- The repeat count after symbol 16: 2-bit field + 3 (42_dynamic_trees.md R187). -/
def repPrevCount (rep : BitVec 2) : Nat := 3 + rep.toNat

/-- The repeat count after symbol 17: 3-bit field + 3 (42_dynamic_trees.md R188). -/
def zeroShortCount (rep : BitVec 3) : Nat := 3 + rep.toNat

/-- The repeat count after symbol 18: 7-bit field + 11 (42_dynamic_trees.md R189). -/
def zeroLongCount (rep : BitVec 7) : Nat := 11 + rep.toNat

/-- The match length of length symbol `sym` with extra-bits value `lext` (43_block_body.md R214). -/
def matchLength (sym lext : Nat) : Nat := lbase (sym - 257) + lext

/-- The distance of distance symbol `d` with extra-bits value `dext` (43_block_body.md R216). -/
def matchDistance (d dext : Nat) : Nat := dbase d + dext

/-- TOT = HLIT + HDIST (42_dynamic_trees.md R185). -/
def State.totalLens (s : State) : Nat := s.hlit.toNat + s.hdist.toNat

/-- `cat`: lz77_length_table while NUM < HLIT, then lz77_dist_table (42_dynamic_trees.md R185, R191). -/
def State.lensCategory (s : State) : Category :=
  if s.num < s.hlit then .lz77LengthTable else .lz77DistTable

/-- `LENS[NUM - 1]`, the previous length (42_dynamic_trees.md R187). -/
def State.previousLen (s : State) : BitVec 4 := (s.lens[s.num.toNat - 1]?).getD 0

/-- The code lengths LENS[0..HLIT) of the literal/length tree (42_dynamic_trees.md R192). -/
def State.litLens (s : State) : List Nat := (s.lens.toList.map BitVec.toNat).take s.hlit.toNat

/-- The code lengths LENS[HLIT..HLIT+HDIST) of the distance tree (42_dynamic_trees.md R192). -/
def State.distLens (s : State) : List Nat :=
  ((s.lens.toList.map BitVec.toNat).drop s.hlit.toNat).take s.hdist.toNat

/-- The literal/length tree ACTIVE selects (43_block_body.md R210). -/
def State.litTree (s : State) : Tree := if s.active = 0 then fixedLit else s.dlt.tree

/-- The distance tree ACTIVE selects (43_block_body.md R216). -/
def State.distTree (s : State) : Tree := if s.active = 0 then fixedDist else s.ddt.tree

/-- The element start `E`: P, but inside a back-reference the start of its length code (00_scope.md R12). -/
def State.elementStart (s : State) : Word :=
  match s.matchPart with
  | none => s.p
  | some q => q.start

/-- `span(e, n)` (45_trace.md R271). -/
def spanAt (e : Word) (n : Nat) : Span := { index := e, length := BitVec.ofNat 8 n }

/-- `span(e, q - e)`: the bits from `e` up to `q` (45_trace.md R271). -/
def spanTo (e q : Word) : Span := { index := e, length := (q - e).setWidth 8 }

/-- `[NUM, NUM+1, .., NUM+cnt-1]` (42_dynamic_trees.md R190). -/
def affectedSymbols (num cnt : Nat) : List (BitVec 9) := (List.range' num cnt).map (BitVec.ofNat 9)

/-- The buffered reads of a code of `n` bits: one bit at a time (41_huffman.md R155). -/
def codeReads (n : Nat) : List Nat := List.replicate n 1

end Sys2Proof.Machine
end

