-- ==== Sys2Proof/Machine/Ops.lean ====
section
/-! DEFINITION. The named operations every meaning is written over: consuming stream bits, emitting a record, raising an
error (the engine's one exception, 60_exceptions.md R335), writing DST, filling LENS, copying a back-reference, and
starting a run. -/

namespace Sys2Proof.Machine

/-- At least `n` stream bits remain: `P + n ≤ 8·N` (40_bitcursor.md R127). -/
abbrev State.hasBits (s : State) (n : Nat) : Prop := s.p.toNat + n ≤ 8 * s.runN.toNat

/-- Consume the fields whose widths are `ws`, in order (40_bitcursor.md R122, R123; the buffered reader by R129). -/
def State.advance (s : State) (ws : List Nat) : State :=
  { s with
    p := s.p + BitVec.ofNat 32 ws.sum
    cursor := ws.foldl (BitCursor.skip s.src s.runN.toNat) s.cursor }

/-- `alignToByte()` (40_bitcursor.md R125; the buffered reader by R130). -/
def State.alignToByte (s : State) : State :=
  { s with p := s.p + BitVec.ofNat 32 (padOf s.p.toNat), cursor := s.cursor.align }

/-- `raise E(e)` (60_exceptions.md R335): ERRCODE takes the code, P goes back to the element start and PHASE becomes
ERROR, in one action; no record is emitted. SRCIDX, BITBUF and BITCNT are unspecified after a fault (R336;
93_implementation_defined.md U3), so they take free values (log entry 7); the element in progress is over. -/
def State.raise (s : State) (err : ErrCode) (e : Word) : State :=
  { s with
    errcode := err
    p := e
    phase := .error
    matchPart := none
    cursor := { srcIdx := Config.freeSrcIdx s.freeCount
                bitBuf := Config.freeBitBuf s.freeCount
                bitCnt := Config.freeBitCnt s.freeCount }
    freeCount := s.freeCount + 1 }

/-- `emit R` (45_trace.md R270). -/
def State.emit (s : State) (r : TraceRecord) : State :=
  { s with trace := s.trace ++ [r], traceCount := s.traceCount + 1 }

/-- `DST[OUTLEN] <- b; OUTLEN <- OUTLEN + 1` (20_memory.md R63). -/
def State.putByte (s : State) (b : Byte) : State :=
  { s with dst := s.dst.write s.outlen.toNat b, outlen := s.outlen + 1 }

/-- Where a block's end leads: DONE after the block with BFINAL = 1, else the next header (43_block_body.md R212;
44_block_machine.md R247). -/
def State.endBlock (s : State) : State :=
  { s with phase := if s.bfinal = 1 then .done else .hdrBfinal }

/-- Read the fields `ws` of the element that starts at `e` and go on; where the bits run out, raise TruncatedStream
with nothing consumed (40_bitcursor.md R123, R127; 60_exceptions.md R336). -/
def reading (ws : List Nat) (e : Word) (s : State) (k : State → Res) : Res :=
  if s.hasBits ws.sum then k (s.advance ws) else .next (s.raise .truncatedStream e)

/-- `for j in 0..cnt-1: LENS[at + j] <- v` (42_dynamic_trees.md R190). -/
def fillLens (v : BitVec 4) : (cnt at_ : Nat) → Vector (BitVec 4) 318 → Vector (BitVec 4) 318
  | 0, _, lens => lens
  | cnt + 1, at_, lens => fillLens v cnt (at_ + 1) (lens.setIfInBounds at_ v)

/-- When NUM reaches HLIT + HDIST, the same step builds both dynamic trees and enters the body (42_dynamic_trees.md
R185, R192). -/
def State.closeLens (s : State) : State :=
  if s.num.toNat = s.totalLens then
    { s with dlt := s.dlt.store (build s.litLens), ddt := s.ddt.store (build s.distLens), active := 1, phase := .body }
  else s

/-- `fill(v, cnt, rs)`, the tail of the repeat symbols, for an element that starts at `e` and has `width` bits
(42_dynamic_trees.md R190): a repeat past HLIT + HDIST raises before any length is written. -/
def repeatLens (v : BitVec 4) (cnt rs width : Nat) (e : Word) (s : State) : Res :=
  if s.totalLens < s.num.toNat + cnt then .next (s.raise .invalidStream e)
  else .next
    (({ s with lens := fillLens v cnt s.num.toNat s.lens, num := s.num + BitVec.ofNat 9 cnt } : State).emit
      (.repeatCodeLength s.lensCategory (BitVec.ofNat 5 rs) (BitVec.ofNat 8 cnt) v
        (affectedSymbols s.num.toNat cnt) (spanAt e width))).closeLens

/-- What the byte-serial copy leaves: DST, OUTLEN, the bytes produced, and whether every byte was written. -/
structure CopyResult where
  dst : Memory
  outlen : Word
  produced : List Byte
  complete : Bool
  deriving DecidableEq, Repr

/-- The byte-serial copy (43_block_body.md R219): each byte is read after every earlier byte of the same copy has been
written, and capacity is checked before each write (R220). -/
def copyLoop (cap : Word) (dist : Nat) : Nat → Memory → Word → List Byte → CopyResult
  | 0, m, o, bytes => { dst := m, outlen := o, produced := bytes, complete := true }
  | k + 1, m, o, bytes =>
    if o = cap then { dst := m, outlen := o, produced := bytes, complete := false }
    else
      let b := m.read (o.toNat - dist)
      copyLoop cap dist k (m.write o.toNat b) (o + 1) (bytes ++ [b])

/-- The copy of a back-reference of `length` bytes from `dist` bytes before the end of the output. -/
def State.copyMatch (s : State) (length dist : Nat) : CopyResult :=
  copyLoop s.runC dist length s.dst s.outlen []

/-- START's action (46_host_interface.md R303): everything it names takes its start value, N and C are latched, and
every other piece of state keeps its value. -/
def State.start (s : State) : State :=
  { s with
    p := 0, cursor := { srcIdx := 0, bitBuf := 0, bitCnt := 0 }, outlen := 0, bfinal := 0, btype := 0, active := 0
    errcode := .none, trace := [], traceCount := 0, phase := .hdrBfinal
    runN := s.srcLen, runC := s.dstCap }

/-- The trace as the port carries it, record by record (45_trace.md R286). -/
def State.traceWire (s : State) : List (List Bool) := s.trace.map Config.traceWireFormat

end Sys2Proof.Machine
end

