-- ==== Sys2Proof/Machine/Body.lean ====
section
/-! DEFINITION. The block body: literals, the end of block and the reserved symbols (43_block_body.md R211 to R213),
and the length parts of back-references (R214). -/

namespace Sys2Proof.Machine

/-- LIT, symbols 0..255 (43_block_body.md R211). -/
def execLit (n : Nat) (byte : Byte) (s : State) : Res :=
  reading (codeReads n) s.p s fun t =>
    if t.outlen = t.runC then .next (s.raise .outputOverflow s.p)
    else .next ((t.putByte byte).emit (.literal byte (spanAt s.p n)))

/-- EOB, symbol 256 (43_block_body.md R212): the final block's record runs to the byte boundary (45_trace.md R280);
P is not rounded. -/
def execEob (n : Nat) (s : State) : Res :=
  reading (codeReads n) s.p s fun t =>
    let width := if t.bfinal = 1 then roundup8 t.p.toNat - s.p.toNat else n
    .next (t.emit (.blockEnd (spanAt s.p width))).endBlock

/-- A reserved symbol with an `n`-bit code, in the element that starts at `e`: InvalidStream, before any extra bits
(43_block_body.md R213, R216). -/
def reservedSymbol (n : Nat) (e : Word) (s : State) : Res :=
  reading (codeReads n) e s fun _ => .next (s.raise .invalidStream e)

/-- LITLEN_RESERVED_286 (43_block_body.md R213). -/
def execLitlenReserved286 (n : Nat) (s : State) : Res := reservedSymbol n s.p s

/-- LITLEN_RESERVED_287 (43_block_body.md R213). -/
def execLitlenReserved287 (n : Nat) (s : State) : Res := reservedSymbol n s.p s

/-- The length part of a back-reference (43_block_body.md R214): length symbol `sym` with an `n`-bit code and
extra-bits value `lext`. It leaves the length for the distance part R216 continues with (log entry 4). -/
def lengthPart (sym n lext : Nat) (s : State) : Res :=
  reading (codeReads n ++ [lbits (sym - 257)]) s.p s fun t =>
    .next { t with
      matchPart := some
        { start := s.p
          sym := BitVec.ofNat 9 sym
          extraAt := s.p + BitVec.ofNat 32 n
          extraBits := BitVec.ofNat 8 (lbits (sym - 257))
          length := BitVec.ofNat 9 (matchLength sym lext) } }

/-- LEN_257 (43_block_body.md R214). -/
def execLen257 (n : Nat) (s : State) : Res := lengthPart 257 n 0 s

/-- LEN_258 (43_block_body.md R214). -/
def execLen258 (n : Nat) (s : State) : Res := lengthPart 258 n 0 s

/-- LEN_259 (43_block_body.md R214). -/
def execLen259 (n : Nat) (s : State) : Res := lengthPart 259 n 0 s

/-- LEN_260 (43_block_body.md R214). -/
def execLen260 (n : Nat) (s : State) : Res := lengthPart 260 n 0 s

/-- LEN_261 (43_block_body.md R214). -/
def execLen261 (n : Nat) (s : State) : Res := lengthPart 261 n 0 s

/-- LEN_262 (43_block_body.md R214). -/
def execLen262 (n : Nat) (s : State) : Res := lengthPart 262 n 0 s

/-- LEN_263 (43_block_body.md R214). -/
def execLen263 (n : Nat) (s : State) : Res := lengthPart 263 n 0 s

/-- LEN_264 (43_block_body.md R214). -/
def execLen264 (n : Nat) (s : State) : Res := lengthPart 264 n 0 s

/-- LEN_265 (43_block_body.md R214). -/
def execLen265 (n : Nat) (lext : BitVec 1) (s : State) : Res := lengthPart 265 n lext.toNat s

/-- LEN_266 (43_block_body.md R214). -/
def execLen266 (n : Nat) (lext : BitVec 1) (s : State) : Res := lengthPart 266 n lext.toNat s

/-- LEN_267 (43_block_body.md R214). -/
def execLen267 (n : Nat) (lext : BitVec 1) (s : State) : Res := lengthPart 267 n lext.toNat s

/-- LEN_268 (43_block_body.md R214). -/
def execLen268 (n : Nat) (lext : BitVec 1) (s : State) : Res := lengthPart 268 n lext.toNat s

/-- LEN_269 (43_block_body.md R214). -/
def execLen269 (n : Nat) (lext : BitVec 2) (s : State) : Res := lengthPart 269 n lext.toNat s

/-- LEN_270 (43_block_body.md R214). -/
def execLen270 (n : Nat) (lext : BitVec 2) (s : State) : Res := lengthPart 270 n lext.toNat s

/-- LEN_271 (43_block_body.md R214). -/
def execLen271 (n : Nat) (lext : BitVec 2) (s : State) : Res := lengthPart 271 n lext.toNat s

/-- LEN_272 (43_block_body.md R214). -/
def execLen272 (n : Nat) (lext : BitVec 2) (s : State) : Res := lengthPart 272 n lext.toNat s

/-- LEN_273 (43_block_body.md R214). -/
def execLen273 (n : Nat) (lext : BitVec 3) (s : State) : Res := lengthPart 273 n lext.toNat s

/-- LEN_274 (43_block_body.md R214). -/
def execLen274 (n : Nat) (lext : BitVec 3) (s : State) : Res := lengthPart 274 n lext.toNat s

/-- LEN_275 (43_block_body.md R214). -/
def execLen275 (n : Nat) (lext : BitVec 3) (s : State) : Res := lengthPart 275 n lext.toNat s

/-- LEN_276 (43_block_body.md R214). -/
def execLen276 (n : Nat) (lext : BitVec 3) (s : State) : Res := lengthPart 276 n lext.toNat s

/-- LEN_277 (43_block_body.md R214). -/
def execLen277 (n : Nat) (lext : BitVec 4) (s : State) : Res := lengthPart 277 n lext.toNat s

/-- LEN_278 (43_block_body.md R214). -/
def execLen278 (n : Nat) (lext : BitVec 4) (s : State) : Res := lengthPart 278 n lext.toNat s

/-- LEN_279 (43_block_body.md R214). -/
def execLen279 (n : Nat) (lext : BitVec 4) (s : State) : Res := lengthPart 279 n lext.toNat s

/-- LEN_280 (43_block_body.md R214). -/
def execLen280 (n : Nat) (lext : BitVec 4) (s : State) : Res := lengthPart 280 n lext.toNat s

/-- LEN_281 (43_block_body.md R214). -/
def execLen281 (n : Nat) (lext : BitVec 5) (s : State) : Res := lengthPart 281 n lext.toNat s

/-- LEN_282 (43_block_body.md R214). -/
def execLen282 (n : Nat) (lext : BitVec 5) (s : State) : Res := lengthPart 282 n lext.toNat s

/-- LEN_283 (43_block_body.md R214). -/
def execLen283 (n : Nat) (lext : BitVec 5) (s : State) : Res := lengthPart 283 n lext.toNat s

/-- LEN_284 (43_block_body.md R214). -/
def execLen284 (n : Nat) (lext : BitVec 5) (s : State) : Res := lengthPart 284 n lext.toNat s

/-- LEN_285 (43_block_body.md R214). -/
def execLen285 (n : Nat) (s : State) : Res := lengthPart 285 n 0 s

end Sys2Proof.Machine
end

