-- ==== Sys2Proof/Machine/Dynamic.lean ====
section
/-! DEFINITION. The dynamic block header: the preamble, the code-length alphabet and the code lengths
(42_dynamic_trees.md R180 to R193). -/

namespace Sys2Proof.Machine

/-- HLIT, field values 0..29 (42_dynamic_trees.md R180). -/
def execHlit (hlit5 : BitVec 5) (s : State) : Res :=
  reading [5] s.p s fun t =>
    .next (({ t with hlit := hlitValue hlit5, phase := .dynHdist } : State).emit
      (.hlit (hlitValue hlit5) (spanAt s.p 5)))

/-- HLIT_RESERVED, field values 30 and 31 (42_dynamic_trees.md R180): InvalidStream before the Hlit record. -/
def execHlitReserved (_low : BitVec 1) (s : State) : Res :=
  reading [5] s.p s fun _ => .next (s.raise .invalidStream s.p)

/-- HDIST (42_dynamic_trees.md R181). -/
def execHdist (hdist5 : BitVec 5) (s : State) : Res :=
  reading [5] s.p s fun t =>
    .next (({ t with hdist := hdistValue hdist5, phase := .dynHclen } : State).emit
      (.hdist (hdistValue hdist5) (spanAt s.p 5)))

/-- HCLEN (42_dynamic_trees.md R182): CLLEN and CLI are cleared, and NUM too (10_state.md R31; log entry 10). -/
def execHclen (hclen4 : BitVec 4) (s : State) : Res :=
  reading [4] s.p s fun t =>
    .next (({ t with
        hclen := hclenValue hclen4, cllen := Vector.replicate 19 0, cli := 0, num := 0
        phase := .dynCllen } : State).emit
      (.hclen (hclenValue hclen4) (spanAt s.p 4)))

/-- After the last 3-bit code length, CLT is built, NUM is cleared and the code lengths follow (42_dynamic_trees.md
R183). -/
def State.closeCllen (s : State) : State :=
  if s.cli = s.hclen then
    { s with clt := s.clt.store (build (s.cllen.toList.map BitVec.toNat)), num := 0, phase := .dynLens }
  else s

/-- CLLEN (42_dynamic_trees.md R183): one code length of the code-length alphabet. -/
def execCllen (clen : BitVec 3) (s : State) : Res :=
  reading [3] s.p s fun t =>
    .next (({ t with
        cllen := t.cllen.setIfInBounds (orderAt t.cli.toNat) clen, cli := t.cli + 1 } : State).emit
      (.codeLength .runLengthTable (BitVec.ofNat 9 (orderAt s.cli.toNat)) (clen.setWidth 4)
        (spanAt s.p 3))).closeCllen

/-- CL_LEN, symbols 0..15 (42_dynamic_trees.md R186, R185). -/
def execClLen (n : Nat) (len : BitVec 4) (s : State) : Res :=
  reading (codeReads n) s.p s fun t =>
    .next (({ t with lens := t.lens.setIfInBounds t.num.toNat len, num := t.num + 1 } : State).emit
      (.codeLength s.lensCategory s.num len (spanAt s.p n))).closeLens

/-- CL_REP_PREV, symbol 16 (42_dynamic_trees.md R187): with no previous length it raises before its extra bits are
read. -/
def execClRepPrev (n : Nat) (rep : BitVec 2) (s : State) : Res :=
  reading (codeReads n) s.p s fun t =>
    if t.num = 0 then .next (s.raise .invalidStream s.p)
    else reading [2] s.p t fun u => repeatLens u.previousLen (repPrevCount rep) 16 (n + 2) s.p u

/-- CL_ZERO_SHORT, symbol 17 (42_dynamic_trees.md R188). -/
def execClZeroShort (n : Nat) (rep : BitVec 3) (s : State) : Res :=
  reading (codeReads n ++ [3]) s.p s fun t => repeatLens 0 (zeroShortCount rep) 17 (n + 3) s.p t

/-- CL_ZERO_LONG, symbol 18 (42_dynamic_trees.md R189). -/
def execClZeroLong (n : Nat) (rep : BitVec 7) (s : State) : Res :=
  reading (codeReads n ++ [7]) s.p s fun t => repeatLens 0 (zeroLongCount rep) 18 (n + 7) s.p t

end Sys2Proof.Machine
end

