-- ==== Sys2Proof/Machine/Header.lean ====
section
/-! DEFINITION. The block header: BFINAL and the four BTYPE elements (44_block_machine.md R241 to R243). -/

namespace Sys2Proof.Machine

/-- BFINAL (44_block_machine.md R241). -/
def execBfinal (bfinal : BitVec 1) (s : State) : Res :=
  reading [1] s.p s fun t =>
    .next (({ t with bfinal := bfinal, phase := .hdrBtype } : State).emit (.bfinal bfinal (spanAt s.p 1)))

/-- The common part of the accepted block types (44_block_machine.md R242): the latch, the record and the phase. -/
def blockType (v : BitVec 2) (phase : Phase) (active : BitVec 1) (s : State) : Res :=
  reading [2] s.p s fun t =>
    .next (({ t with btype := v, active := active, phase := phase } : State).emit (.btype v (spanAt s.p 2)))

/-- BTYPE_STORED (44_block_machine.md R242, v = 0). -/
def execBtypeStored (s : State) : Res := blockType 0 .storedHdr s.active s

/-- BTYPE_FIXED (44_block_machine.md R242, v = 1): ACTIVE selects the fixed trees. -/
def execBtypeFixed (s : State) : Res := blockType 1 .body 0 s

/-- BTYPE_DYNAMIC (44_block_machine.md R242, v = 2): ACTIVE is set later, by 42_dynamic_trees.md R192. -/
def execBtypeDynamic (s : State) : Res := blockType 2 .dynHlit s.active s

/-- BTYPE_RESERVED (44_block_machine.md R243): InvalidBlockType at the start of the field. -/
def execBtypeReserved (s : State) : Res :=
  reading [2] s.p s fun _ => .next (s.raise .invalidBlockType s.p)

end Sys2Proof.Machine
end

