-- ==== Sys2Proof/Machine/Match.lean ====
section
/-! DEFINITION. The distance part of a back-reference, its copy and its record (43_block_body.md R216 to R223). -/

namespace Sys2Proof.Machine

/-- The distance part of the back-reference whose length part is `q` (43_block_body.md R216, R218 to R221): the
distance check, the byte-serial copy, and one record for the whole back-reference. A copy stopped by the capacity keeps
the bytes it wrote (R220). -/
def finishMatch (q : MatchPart) (d n dext : Nat) (s : State) : Res :=
  reading (codeReads n ++ [dbits d]) q.start s fun t =>
    let dist := matchDistance d dext
    if dist = 0 ∨ s.outlen.toNat < dist then .next (s.raise .invalidDistance q.start)
    else
      let c := s.copyMatch q.length.toNat dist
      if c.complete then
        .next (({ t with dst := c.dst, outlen := c.outlen, matchPart := none } : State).emit
          (.lz77 q.length q.sym { index := q.extraAt, length := q.extraBits }
            (BitVec.ofNat 16 dist) (BitVec.ofNat 5 d)
            (spanAt (s.p + BitVec.ofNat 32 n) (dbits d)) (spanTo q.start t.p) c.produced))
      else .next (({ s with dst := c.dst, outlen := c.outlen } : State).raise .outputOverflow q.start)

/-- The distance part of a back-reference. It continues a length part (43_block_body.md R216); where none came before,
the spec gives it no meaning (log entry 12). -/
def distancePart (d n dext : Nat) (s : State) : Res :=
  match s.matchPart with
  | none => .refused .noLengthPart
  | some q => finishMatch q d n dext s

/-- A reserved distance symbol (43_block_body.md R216). -/
def reservedDistance (n : Nat) (s : State) : Res :=
  match s.matchPart with
  | none => .refused .noLengthPart
  | some q => reservedSymbol n q.start s

/-- DIST_0 (43_block_body.md R216). -/
def execDist0 (n : Nat) (s : State) : Res := distancePart 0 n 0 s

/-- DIST_1 (43_block_body.md R216). -/
def execDist1 (n : Nat) (s : State) : Res := distancePart 1 n 0 s

/-- DIST_2 (43_block_body.md R216). -/
def execDist2 (n : Nat) (s : State) : Res := distancePart 2 n 0 s

/-- DIST_3 (43_block_body.md R216). -/
def execDist3 (n : Nat) (s : State) : Res := distancePart 3 n 0 s

/-- DIST_4 (43_block_body.md R216). -/
def execDist4 (n : Nat) (dext : BitVec 1) (s : State) : Res := distancePart 4 n dext.toNat s

/-- DIST_5 (43_block_body.md R216). -/
def execDist5 (n : Nat) (dext : BitVec 1) (s : State) : Res := distancePart 5 n dext.toNat s

/-- DIST_6 (43_block_body.md R216). -/
def execDist6 (n : Nat) (dext : BitVec 2) (s : State) : Res := distancePart 6 n dext.toNat s

/-- DIST_7 (43_block_body.md R216). -/
def execDist7 (n : Nat) (dext : BitVec 2) (s : State) : Res := distancePart 7 n dext.toNat s

/-- DIST_8 (43_block_body.md R216). -/
def execDist8 (n : Nat) (dext : BitVec 3) (s : State) : Res := distancePart 8 n dext.toNat s

/-- DIST_9 (43_block_body.md R216). -/
def execDist9 (n : Nat) (dext : BitVec 3) (s : State) : Res := distancePart 9 n dext.toNat s

/-- DIST_10 (43_block_body.md R216). -/
def execDist10 (n : Nat) (dext : BitVec 4) (s : State) : Res := distancePart 10 n dext.toNat s

/-- DIST_11 (43_block_body.md R216). -/
def execDist11 (n : Nat) (dext : BitVec 4) (s : State) : Res := distancePart 11 n dext.toNat s

/-- DIST_12 (43_block_body.md R216). -/
def execDist12 (n : Nat) (dext : BitVec 5) (s : State) : Res := distancePart 12 n dext.toNat s

/-- DIST_13 (43_block_body.md R216). -/
def execDist13 (n : Nat) (dext : BitVec 5) (s : State) : Res := distancePart 13 n dext.toNat s

/-- DIST_14 (43_block_body.md R216). -/
def execDist14 (n : Nat) (dext : BitVec 6) (s : State) : Res := distancePart 14 n dext.toNat s

/-- DIST_15 (43_block_body.md R216). -/
def execDist15 (n : Nat) (dext : BitVec 6) (s : State) : Res := distancePart 15 n dext.toNat s

/-- DIST_16 (43_block_body.md R216). -/
def execDist16 (n : Nat) (dext : BitVec 7) (s : State) : Res := distancePart 16 n dext.toNat s

/-- DIST_17 (43_block_body.md R216). -/
def execDist17 (n : Nat) (dext : BitVec 7) (s : State) : Res := distancePart 17 n dext.toNat s

/-- DIST_18 (43_block_body.md R216). -/
def execDist18 (n : Nat) (dext : BitVec 8) (s : State) : Res := distancePart 18 n dext.toNat s

/-- DIST_19 (43_block_body.md R216). -/
def execDist19 (n : Nat) (dext : BitVec 8) (s : State) : Res := distancePart 19 n dext.toNat s

/-- DIST_20 (43_block_body.md R216). -/
def execDist20 (n : Nat) (dext : BitVec 9) (s : State) : Res := distancePart 20 n dext.toNat s

/-- DIST_21 (43_block_body.md R216). -/
def execDist21 (n : Nat) (dext : BitVec 9) (s : State) : Res := distancePart 21 n dext.toNat s

/-- DIST_22 (43_block_body.md R216). -/
def execDist22 (n : Nat) (dext : BitVec 10) (s : State) : Res := distancePart 22 n dext.toNat s

/-- DIST_23 (43_block_body.md R216). -/
def execDist23 (n : Nat) (dext : BitVec 10) (s : State) : Res := distancePart 23 n dext.toNat s

/-- DIST_24 (43_block_body.md R216). -/
def execDist24 (n : Nat) (dext : BitVec 11) (s : State) : Res := distancePart 24 n dext.toNat s

/-- DIST_25 (43_block_body.md R216). -/
def execDist25 (n : Nat) (dext : BitVec 11) (s : State) : Res := distancePart 25 n dext.toNat s

/-- DIST_26 (43_block_body.md R216). -/
def execDist26 (n : Nat) (dext : BitVec 12) (s : State) : Res := distancePart 26 n dext.toNat s

/-- DIST_27 (43_block_body.md R216). -/
def execDist27 (n : Nat) (dext : BitVec 12) (s : State) : Res := distancePart 27 n dext.toNat s

/-- DIST_28 (43_block_body.md R216). -/
def execDist28 (n : Nat) (dext : BitVec 13) (s : State) : Res := distancePart 28 n dext.toNat s

/-- DIST_29 (43_block_body.md R216). -/
def execDist29 (n : Nat) (dext : BitVec 13) (s : State) : Res := distancePart 29 n dext.toNat s

/-- DIST_RESERVED_30 (43_block_body.md R216). -/
def execDistReserved30 (n : Nat) (s : State) : Res := reservedDistance n s

/-- DIST_RESERVED_31 (43_block_body.md R216). -/
def execDistReserved31 (n : Nat) (s : State) : Res := reservedDistance n s

end Sys2Proof.Machine
end

