-- ==== Sys2Proof/Machine/Stored.lean ====
section
/-! DEFINITION. The stored block: its header, its bytes and its end (44_block_machine.md R244 to R247). -/

namespace Sys2Proof.Machine

/-- STORED_HDR (44_block_machine.md R244, R245). On either fault the alignment is undone (60_exceptions.md R336). -/
def execStoredHdr (len nlen : BitVec 16) (s : State) : Res :=
  let pad := padOf s.p.toNat
  if ¬ s.hasBits (pad + 32) then .next (s.raise .truncatedStream s.p)
  else if len ≠ ~~~nlen then .next (s.raise .blockLengthMismatch s.p)
  else .next
    (({ s.alignToByte.advance [16, 16] with
        storedRem := len, phase := if len = 0 then .storedEnd else .storedData } : State).emit
      (.storedHeader (BitVec.ofNat 3 pad) len nlen (spanAt s.p (pad + 32))))

/-- STORED_BYTE (44_block_machine.md R246). -/
def execStoredByte (byte : Byte) (s : State) : Res :=
  reading [8] s.p s fun t =>
    if t.outlen = t.runC then .next (s.raise .outputOverflow s.p)
    else
      let u := (t.putByte byte).emit (.literal byte (spanAt s.p 8))
      .next { u with
        storedRem := u.storedRem - 1
        phase := if u.storedRem - 1 = 0 then .storedEnd else u.phase }

/-- STORED_END (44_block_machine.md R247): it reads no bits and raises nothing. -/
def execStoredEnd (s : State) : Res := .next (s.emit (.blockEnd (spanAt s.p 0))).endBlock

end Sys2Proof.Machine
end

