-- ==== Sys2Proof/Machine/Dispatch.lean ====
section
/-! DEFINITION. One arm per element kind of 30_encoding.md R88, each a call of its meaning. -/

namespace Sys2Proof.Machine

/-- The meaning of an element, on the state at its start. -/
def exec (i : Instr) (s : State) : Host.Outcome State Fault Refusal :=
  match i with
  | .bfinal bfinal => Sys2Proof.Machine.execBfinal bfinal s
  | .btypeStored => Sys2Proof.Machine.execBtypeStored s
  | .btypeFixed => Sys2Proof.Machine.execBtypeFixed s
  | .btypeDynamic => Sys2Proof.Machine.execBtypeDynamic s
  | .btypeReserved => Sys2Proof.Machine.execBtypeReserved s
  | .storedHdr len nlen => Sys2Proof.Machine.execStoredHdr len nlen s
  | .storedByte byte => Sys2Proof.Machine.execStoredByte byte s
  | .storedEnd => Sys2Proof.Machine.execStoredEnd s
  | .hlit hlit5 => Sys2Proof.Machine.execHlit hlit5 s
  | .hlitReserved low => Sys2Proof.Machine.execHlitReserved low s
  | .hdist hdist5 => Sys2Proof.Machine.execHdist hdist5 s
  | .hclen hclen4 => Sys2Proof.Machine.execHclen hclen4 s
  | .cllen clen => Sys2Proof.Machine.execCllen clen s
  | .clLen n len => Sys2Proof.Machine.execClLen n len s
  | .clRepPrev n rep => Sys2Proof.Machine.execClRepPrev n rep s
  | .clZeroShort n rep => Sys2Proof.Machine.execClZeroShort n rep s
  | .clZeroLong n rep => Sys2Proof.Machine.execClZeroLong n rep s
  | .lit n byte => Sys2Proof.Machine.execLit n byte s
  | .eob n => Sys2Proof.Machine.execEob n s
  | .len257 n => Sys2Proof.Machine.execLen257 n s
  | .len258 n => Sys2Proof.Machine.execLen258 n s
  | .len259 n => Sys2Proof.Machine.execLen259 n s
  | .len260 n => Sys2Proof.Machine.execLen260 n s
  | .len261 n => Sys2Proof.Machine.execLen261 n s
  | .len262 n => Sys2Proof.Machine.execLen262 n s
  | .len263 n => Sys2Proof.Machine.execLen263 n s
  | .len264 n => Sys2Proof.Machine.execLen264 n s
  | .len265 n lext => Sys2Proof.Machine.execLen265 n lext s
  | .len266 n lext => Sys2Proof.Machine.execLen266 n lext s
  | .len267 n lext => Sys2Proof.Machine.execLen267 n lext s
  | .len268 n lext => Sys2Proof.Machine.execLen268 n lext s
  | .len269 n lext => Sys2Proof.Machine.execLen269 n lext s
  | .len270 n lext => Sys2Proof.Machine.execLen270 n lext s
  | .len271 n lext => Sys2Proof.Machine.execLen271 n lext s
  | .len272 n lext => Sys2Proof.Machine.execLen272 n lext s
  | .len273 n lext => Sys2Proof.Machine.execLen273 n lext s
  | .len274 n lext => Sys2Proof.Machine.execLen274 n lext s
  | .len275 n lext => Sys2Proof.Machine.execLen275 n lext s
  | .len276 n lext => Sys2Proof.Machine.execLen276 n lext s
  | .len277 n lext => Sys2Proof.Machine.execLen277 n lext s
  | .len278 n lext => Sys2Proof.Machine.execLen278 n lext s
  | .len279 n lext => Sys2Proof.Machine.execLen279 n lext s
  | .len280 n lext => Sys2Proof.Machine.execLen280 n lext s
  | .len281 n lext => Sys2Proof.Machine.execLen281 n lext s
  | .len282 n lext => Sys2Proof.Machine.execLen282 n lext s
  | .len283 n lext => Sys2Proof.Machine.execLen283 n lext s
  | .len284 n lext => Sys2Proof.Machine.execLen284 n lext s
  | .len285 n => Sys2Proof.Machine.execLen285 n s
  | .litlenReserved286 n => Sys2Proof.Machine.execLitlenReserved286 n s
  | .litlenReserved287 n => Sys2Proof.Machine.execLitlenReserved287 n s
  | .dist0 n => Sys2Proof.Machine.execDist0 n s
  | .dist1 n => Sys2Proof.Machine.execDist1 n s
  | .dist2 n => Sys2Proof.Machine.execDist2 n s
  | .dist3 n => Sys2Proof.Machine.execDist3 n s
  | .dist4 n dext => Sys2Proof.Machine.execDist4 n dext s
  | .dist5 n dext => Sys2Proof.Machine.execDist5 n dext s
  | .dist6 n dext => Sys2Proof.Machine.execDist6 n dext s
  | .dist7 n dext => Sys2Proof.Machine.execDist7 n dext s
  | .dist8 n dext => Sys2Proof.Machine.execDist8 n dext s
  | .dist9 n dext => Sys2Proof.Machine.execDist9 n dext s
  | .dist10 n dext => Sys2Proof.Machine.execDist10 n dext s
  | .dist11 n dext => Sys2Proof.Machine.execDist11 n dext s
  | .dist12 n dext => Sys2Proof.Machine.execDist12 n dext s
  | .dist13 n dext => Sys2Proof.Machine.execDist13 n dext s
  | .dist14 n dext => Sys2Proof.Machine.execDist14 n dext s
  | .dist15 n dext => Sys2Proof.Machine.execDist15 n dext s
  | .dist16 n dext => Sys2Proof.Machine.execDist16 n dext s
  | .dist17 n dext => Sys2Proof.Machine.execDist17 n dext s
  | .dist18 n dext => Sys2Proof.Machine.execDist18 n dext s
  | .dist19 n dext => Sys2Proof.Machine.execDist19 n dext s
  | .dist20 n dext => Sys2Proof.Machine.execDist20 n dext s
  | .dist21 n dext => Sys2Proof.Machine.execDist21 n dext s
  | .dist22 n dext => Sys2Proof.Machine.execDist22 n dext s
  | .dist23 n dext => Sys2Proof.Machine.execDist23 n dext s
  | .dist24 n dext => Sys2Proof.Machine.execDist24 n dext s
  | .dist25 n dext => Sys2Proof.Machine.execDist25 n dext s
  | .dist26 n dext => Sys2Proof.Machine.execDist26 n dext s
  | .dist27 n dext => Sys2Proof.Machine.execDist27 n dext s
  | .dist28 n dext => Sys2Proof.Machine.execDist28 n dext s
  | .dist29 n dext => Sys2Proof.Machine.execDist29 n dext s
  | .distReserved30 n => Sys2Proof.Machine.execDistReserved30 n s
  | .distReserved31 n => Sys2Proof.Machine.execDistReserved31 n s

end Sys2Proof.Machine
end

