-- ==== Sys2Proof/Machine/Flags.lean ====
section
/-! DEFINITION. The engine has no condition codes (10_state.md R39). Its flags are BFINAL, ACTIVE and STATUS.STATE,
which follows from PHASE; the registers of the register block (46_host_interface.md R301, R302) are views of State. -/

namespace Sys2Proof.Machine

/-- The PHASE encodings (10_state.md R24). -/
def Phase.code : Phase → BitVec 4
  | .idle => 0
  | .hdrBfinal => 1
  | .hdrBtype => 2
  | .storedHdr => 3
  | .storedData => 4
  | .storedEnd => 5
  | .dynHlit => 6
  | .dynHdist => 7
  | .dynHclen => 8
  | .dynCllen => 9
  | .dynLens => 10
  | .body => 11
  | .done => 12
  | .error => 13

/-- The error numbers (60_exceptions.md R330). -/
def ErrCode.code : ErrCode → BitVec 4
  | .none => 0
  | .truncatedStream => 1
  | .invalidCode => 2
  | .invalidBlockType => 3
  | .blockLengthMismatch => 4
  | .invalidDistance => 5
  | .outputOverflow => 6
  | .invalidStream => 7
  | .notGzip => 8

/-- STATUS.STATE from PHASE (10_state.md R39): 0 IDLE, 1 BUSY, 2 DONE, 3 ERROR. -/
def Phase.statusState : Phase → BitVec 2
  | .idle => 0
  | .done => 2
  | .error => 3
  | _ => 1

/-- STATUS.STATE = BUSY (10_state.md R39). -/
def State.busy (s : State) : Bool := s.phase.statusState = 1

/-- STATUS: STATE in [1:0], BFINAL in [2], ACTIVE in [3] (46_host_interface.md R302). -/
def State.status (s : State) : Word :=
  BitVec.ofNat 32 (s.phase.statusState.toNat + 4 * s.bfinal.toNat + 8 * s.active.toNat)

/-- CONSUMED_BYTES = ceil(P / 8) (46_host_interface.md R302). -/
def State.consumedBytes (s : State) : Word := BitVec.ofNat 32 ((s.p.toNat + 7) / 8)

/-- The registers of the register block (46_host_interface.md R301). -/
inductive Reg where
  | ctrl | status | error | srcLen | dstCap | outLen | bitPos | traceCount | phase | consumedBytes
  deriving DecidableEq, Repr

/-- The register at a byte offset from CSR_BASE; offsets 0x28 and up are not decoded (46_host_interface.md R301). -/
def Reg.atOffset (offset : Nat) : Option Reg :=
  match offset with
  | 0x00 => some .ctrl
  | 0x04 => some .status
  | 0x08 => some .error
  | 0x0C => some .srcLen
  | 0x10 => some .dstCap
  | 0x14 => some .outLen
  | 0x18 => some .bitPos
  | 0x1C => some .traceCount
  | 0x20 => some .phase
  | 0x24 => some .consumedBytes
  | _ => none

/-- What a register reads as (46_host_interface.md R301, R302): reserved bits read 0, CTRL reads 0. -/
def State.readReg (s : State) : Reg → Word
  | .ctrl => 0
  | .status => s.status
  | .error => s.errcode.code.setWidth 32
  | .srcLen => s.srcLen
  | .dstCap => s.dstCap
  | .outLen => s.outlen
  | .bitPos => s.p
  | .traceCount => s.traceCount
  | .phase => s.phase.code.setWidth 32
  | .consumedBytes => s.consumedBytes

end Sys2Proof.Machine
end

