-- ==== Sys2Proof/Machine/Fetch.lean ====
section
/-! DEFINITION. One engine step (44_block_machine.md R240): the format the phase selects, the stream bits at P, the
decode, and the meaning of what it gives; the back-reference as one step of two elements; the trace port's
back-pressure. Step.lean calls what stands here. -/

namespace Sys2Proof.Machine

/-- The format of the next element: a function of PHASE alone (30_encoding.md R80, R82), but for a DSYM, which stands
inside an LLSYM element. In IDLE, DONE and ERROR there is none (44_block_machine.md R240). -/
def State.elementFormat (s : State) : Option Format :=
  match s.phase with
  | .idle => none
  | .hdrBfinal => some .f1
  | .hdrBtype => some .f2
  | .storedHdr => some .sh32
  | .storedData => some .b8
  | .storedEnd => some .z0
  | .dynHlit => some .f5h
  | .dynHdist => some .f5d
  | .dynHclen => some .f4
  | .dynCllen => some .f3
  | .dynLens => some .clsym
  | .body => if s.matchPart.isSome then some .dsym else some .llsym
  | .done => none
  | .error => none

/-- The context a decode takes from State (30_encoding.md R93). -/
def State.decodeCtx (s : State) : DecodeCtx :=
  { align := s.p.toNat % 8, clt := s.clt.tree, lit := s.litTree, dist := s.distTree, noPrevious := s.num = 0 }

/-- The stream bits from P on, as many as the longest element has, and none at a position `≥ 8·N` (20_memory.md R61). -/
def State.fetchBits (s : State) : List Bool :=
  streamBits s.src s.p.toNat (min longestElement (8 * s.runN.toNat - s.p.toNat))

/-- What a decode that gives no element does: the raise of its rule, at the element start. -/
def raiseDecode (err : DecodeError) (e : Word) (s : State) : Res :=
  match err with
  | .truncated => .next (s.raise .truncatedStream e)
  | .invalidCode => .next (s.raise .invalidCode e)
  | .noPreviousLength => .next (s.raise .invalidStream e)
  | .noTableEntry => .refused .noTableEntry

/-- The start of the element a format is decoded in: a DSYM belongs to the back-reference that its length code
started (60_exceptions.md R335). -/
def State.startFor (s : State) (f : Format) : Word :=
  match f with
  | .dsym => s.elementStart
  | _ => s.p

/-- Decode one element of format `f` at P and run it. -/
def runElement (f : Format) (s : State) : Res :=
  match decode f s.decodeCtx s.fetchBits with
  | .ok (i, _) => exec i s
  | .error err => raiseDecode err (s.startFor f) s

/-- After a length part, the same step goes on with the distance part (43_block_body.md R214 "continue with rule R216";
44_block_machine.md R240: one step per element). -/
def continueMatch (f : Format) (r : Res) : Res :=
  match r with
  | .next t => if f = .llsym ∧ t.matchPart.isSome = true then runElement .dsym t else .next t
  | o => o

/-- One element of the stream (44_block_machine.md R240). -/
def elementStep (s : State) : Res :=
  match s.elementFormat with
  | none => .next s
  | some f => continueMatch f (runElement f s)

/-- The trace port's back-pressure (45_trace.md R286): while the consumer accepts no record, a step that would emit one
does not take effect, "and no state beyond the last accepted record changes" (log entry 6). -/
def State.gate (s : State) (r : Res) : Res :=
  match r with
  | .next t => if s.traceReady = false ∧ t.trace.length ≠ s.trace.length then .next s else .next t
  | o => o

/-- One step of the engine. -/
def engineStep (s : State) : Res := s.gate (elementStep s)

/-! ## Placing a table word where the next step decodes -/

/-- Set or clear stream bit `p` of SRC. -/
def putBit (m : Memory) (p : Nat) (b : Bool) : Memory :=
  let old := m.read (p / 8)
  m.write (p / 8) (if b then old ||| (1#8 <<< (p % 8)) else old &&& ~~~(1#8 <<< (p % 8)))

/-- Store bits at stream positions `p`, `p + 1`, .. of SRC. -/
def putBits : Memory → Nat → List Bool → Memory
  | m, _, [] => m
  | m, p, b :: rest => putBits (putBit m p b) (p + 1) rest

/-- A phase in which a format is decoded (30_encoding.md R82). -/
def phaseOf : Format → Phase
  | .f1 => .hdrBfinal
  | .f2 => .hdrBtype
  | .sh32 => .storedHdr
  | .b8 => .storedData
  | .z0 => .storedEnd
  | .f5h => .dynHlit
  | .f5d => .dynHdist
  | .f4 => .dynHclen
  | .f3 => .dynCllen
  | .clsym => .dynLens
  | .llsym => .body
  | .dsym => .body

/-- The shortest length part (symbol 257), for a DSYM that is placed on its own. -/
def plantedLength (e : Word) : MatchPart := { start := e, sym := 257, extraAt := e, extraBits := 0, length := 3 }

/-- Place the stream bits of an element of format `f` at P, with all that the next step needs to decode them: the phase,
enough source bytes, for a code the trees `tableCtx` codes it with, for a DSYM a length part before it, a consumer on
the trace port, and nothing for the outside to do first (log entry 20). -/
def State.plant (s : State) (f : Format) (bits : List Bool) : State :=
  { s with
    phase := phaseOf f
    active := match f with
      | .llsym => 0
      | .dsym => 0
      | _ => s.active
    clt := match f with
      | .clsym => s.clt.store tableClt
      | _ => s.clt
    num := match f with
      | .clsym => if s.num = 0 then 1 else s.num
      | _ => s.num
    matchPart := match f with
      | .dsym => some (plantedLength s.p)
      | _ => none
    runN := BitVec.ofNat 32 (s.p.toNat / 8 + 8)
    src := putBits s.src s.p.toNat
      ((match f with
        | .sh32 => List.replicate (padOf s.p.toNat) false
        | _ => []) ++ tableBits bits)
    traceReady := true
    host := [] }

end Sys2Proof.Machine
end

