-- ==== Sys2Proof/Machine/HostPort.lean ====
section
/-! DEFINITION. The host interface (46_host_interface.md): the register port, the host's accesses to SRC and DST, the
reset input, and what one act of the outside does. -/

namespace Sys2Proof.Machine

/-- The byte offset from CSR_BASE of a host address (46_host_interface.md R301). That a host address has 32 bits, and that
an address below CSR_BASE counts as the offset modulo 2^32, 0x28 or more, is the model's choice (DESIGN CHOICE, log entry
31). -/
def regOffset (addr : Word) : Nat := (addr - Config.csrBase).toNat

/-- An access the register port has a meaning for: 32 bits wide and aligned to 4 bytes (46_host_interface.md R305). -/
abbrev regAccessOk (addr : Word) (bytes : Nat) : Prop := bytes = 4 ∧ regOffset addr % 4 = 0

/-- A write to CTRL (46_host_interface.md R303): bit 0 = 1 starts a run unless STATE = BUSY. -/
def State.writeCtrl (s : State) (value : Word) : State :=
  if value.getLsbD 0 = true ∧ s.busy = false then s.start else s

/-- A write to SRC_LEN (46_host_interface.md R304): ignored while BUSY or above SRC_MAX_BYTES. -/
def State.writeSrcLen (s : State) (value : Word) : State :=
  if s.busy = true ∨ Config.srcMaxBytes < value.toNat then s else { s with srcLen := value }

/-- A write to DST_CAP (46_host_interface.md R304): ignored while BUSY or above DST_CAP_MAX. -/
def State.writeDstCap (s : State) (value : Word) : State :=
  if s.busy = true ∨ Config.dstCapMax < value.toNat then s else { s with dstCap := value }

/-- A write to a register: CTRL, SRC_LEN and DST_CAP take it, the others are read-only (46_host_interface.md R301). -/
def State.writeReg (s : State) (r : Reg) (value : Word) : State :=
  match r with
  | .ctrl => s.writeCtrl value
  | .srcLen => s.writeSrcLen value
  | .dstCap => s.writeDstCap value
  | .status => s
  | .error => s
  | .outLen => s
  | .bitPos => s
  | .traceCount => s
  | .phase => s
  | .consumedBytes => s

/-- A write to the register port. Offsets no register has are ignored (46_host_interface.md R301); another shape of
access is refused (R305; log entry 14). -/
def regWrite (addr : Word) (bytes : Nat) (value : Word) (s : State) : Res :=
  if regAccessOk addr bytes then
    match Reg.atOffset (regOffset addr) with
    | some r => .next (s.writeReg r value)
    | none => .next s
  else .refused .registerAccessShape

/-- A read of the register port, with no side effect on the engine (46_host_interface.md R305). Offsets no register has
read 0 (R301); another shape of access returns a free value (93_implementation_defined.md U6). -/
def regRead (addr : Word) (bytes : Nat) (s : State) : Res :=
  if regAccessOk addr bytes then
    match Reg.atOffset (regOffset addr) with
    | some r => .next { s with readData := s.readReg r }
    | none => .next { s with readData := 0 }
  else .next { s with readData := Config.freeRead s.freeCount, freeCount := s.freeCount + 1 }

/-- The index a host's place stands for in a buffer of at most `size` bytes with this window; none where an address lies
in no window, so that the access does not reach the engine (log entry 30). The offset in a window is taken modulo 2^32,
as that of a register is (log entry 31). -/
def HostPlace.resolve (window : Option Word) (size : Nat) : HostPlace → Option Nat
  | .index i => some i
  | .address a =>
    match window with
    | none => none
    | some w => if (a - w).toNat < size then some (a - w).toNat else none

/-- An access to SRC or DST while BUSY is refused: "A model admits no host access to SRC or DST during a run"
(93_implementation_defined.md U5; 20_memory.md R70, R74; log entry 13). -/
def unlessBusy (s : State) (r : Res) : Res := if s.busy = true then .refused .hostAccessWhileBusy else r

/-- A host access to a buffer: nothing where the place lies outside the buffer's window, BUSY or not, since it touches
neither SRC nor DST (log entry 30); otherwise, unless BUSY, `k` where the place is a byte the buffer has. -/
def hostBuffer (window : Option Word) (size : Nat) (place : HostPlace) (s : State) (k : Nat → Res) : Res :=
  match place.resolve window size with
  | none => .next s
  | some i => unlessBusy s (if i < size then k i else .fault .noSuchByte)

/-- The host places a byte in SRC (46_host_interface.md R310; 20_memory.md R74). -/
def hostSrcWrite (place : HostPlace) (value : Byte) (s : State) : Res :=
  hostBuffer Config.srcWindow Config.srcMaxBytes place s fun i =>
    .next { s with src := s.src.write i value }

/-- The host reads a byte of SRC. R74 does not forbid it while BUSY, but R70 has the engine alone access SRC then and
U5 admits no host access during a run, so it is refused then like the others (20_memory.md R70; log entry 13). -/
def hostSrcRead (place : HostPlace) (s : State) : Res :=
  hostBuffer Config.srcWindow Config.srcMaxBytes place s fun i =>
    .next { s with readData := (s.src.read i).setWidth 32 }

/-- The host places a byte in DST (20_memory.md R74). -/
def hostDstWrite (place : HostPlace) (value : Byte) (s : State) : Res :=
  hostBuffer Config.dstWindow Config.dstCapMax place s fun i =>
    .next { s with dst := s.dst.write i value }

/-- The host reads a byte of DST (46_host_interface.md R310; 20_memory.md R74). -/
def hostDstRead (place : HostPlace) (s : State) : Res :=
  hostBuffer Config.dstWindow Config.dstCapMax place s fun i =>
    .next { s with readData := (s.dst.read i).setWidth 32 }

/-- The reset input (70_reset_and_hazards.md R360): every piece of engine state takes its reset value; SRC and DST are
the host's and keep their bytes, and so do the model's fields of the outside (log entry 26). It is the assertion of reset and
its release in one: what an access does while reset is held the spec leaves open (DESIGN CHOICE, log entry 32). -/
def State.applyReset (s : State) : State :=
  { State.reset with
    src := s.src, dst := s.dst, traceReady := s.traceReady, readData := s.readData, host := s.host
    freeCount := s.freeCount }

/-- One act of the outside on the engine. Each is indivisible, reset too: the act after it meets the released engine
(DESIGN CHOICE, log entry 32). -/
def perform (a : HostAct) (s : State) : Res :=
  match a with
  | .regWrite addr bytes value => regWrite addr bytes value s
  | .regRead addr bytes => regRead addr bytes s
  | .srcWrite place value => hostSrcWrite place value s
  | .srcRead place => hostSrcRead place s
  | .dstWrite place value => hostDstWrite place value s
  | .dstRead place => hostDstRead place s
  | .traceReady ready => .next { s with traceReady := ready }
  | .reset => .next s.applyReset
  | .engine => engineStep s

end Sys2Proof.Machine
end

