-- ==== Sys2Proof/Machine/Step.lean ====
section
/-! DEFINITION. The step of the whole machine, and where a table word is placed for it. -/

namespace Sys2Proof.Machine

/-- One step: the next act of the outside, where there is one, and otherwise one engine step (44_block_machine.md R240;
log entry 5). -/
def step (s : State) : Host.Outcome State Fault Refusal :=
  match s.host with
  | [] => engineStep s
  | a :: rest => perform a { s with host := rest }

/-- The state whose next step decodes and runs the instruction of a table word (log entry 20). -/
def State.withFetchWord (s : State) (nbits w : Nat) : State :=
  match tableRow nbits w with
  | none => s
  | some (f, bits) => s.plant f bits

end Sys2Proof.Machine
end

