-- ==== Sys2Proof/Safety.lean ====
section
/-! DEFINITION. What claims about runs are stated in: the invariant of the engine, the tiling of the stream by the trace
(45_trace.md R278, R282), the text of the trace (R283), the coherence of the buffered reader (10_state.md R40), and the
successors of a phase (44_block_machine.md R240). -/

namespace Sys2Proof

open Sys2Proof.Machine in
/-- The width in bits of an element that starts `align` bits into a byte (30_encoding.md R82). -/
def Instr.width (align : Nat) : Instr → Nat
  | .bfinal _ => 1
  | .btypeStored => 2
  | .btypeFixed => 2
  | .btypeDynamic => 2
  | .btypeReserved => 2
  | .storedHdr _ _ => padOf align + 32
  | .storedByte _ => 8
  | .storedEnd => 0
  | .hlit _ => 5
  | .hlitReserved _ => 5
  | .hdist _ => 5
  | .hclen _ => 4
  | .cllen _ => 3
  | .clLen n _ => n
  | .clRepPrev n _ => n + 2
  | .clZeroShort n _ => n + 3
  | .clZeroLong n _ => n + 7
  | .lit n _ => n
  | .eob n => n
  | .len257 n => n
  | .len258 n => n
  | .len259 n => n
  | .len260 n => n
  | .len261 n => n
  | .len262 n => n
  | .len263 n => n
  | .len264 n => n
  | .len265 n _ => n + 1
  | .len266 n _ => n + 1
  | .len267 n _ => n + 1
  | .len268 n _ => n + 1
  | .len269 n _ => n + 2
  | .len270 n _ => n + 2
  | .len271 n _ => n + 2
  | .len272 n _ => n + 2
  | .len273 n _ => n + 3
  | .len274 n _ => n + 3
  | .len275 n _ => n + 3
  | .len276 n _ => n + 3
  | .len277 n _ => n + 4
  | .len278 n _ => n + 4
  | .len279 n _ => n + 4
  | .len280 n _ => n + 4
  | .len281 n _ => n + 5
  | .len282 n _ => n + 5
  | .len283 n _ => n + 5
  | .len284 n _ => n + 5
  | .len285 n => n
  | .litlenReserved286 n => n
  | .litlenReserved287 n => n
  | .dist0 n => n
  | .dist1 n => n
  | .dist2 n => n
  | .dist3 n => n
  | .dist4 n _ => n + 1
  | .dist5 n _ => n + 1
  | .dist6 n _ => n + 2
  | .dist7 n _ => n + 2
  | .dist8 n _ => n + 3
  | .dist9 n _ => n + 3
  | .dist10 n _ => n + 4
  | .dist11 n _ => n + 4
  | .dist12 n _ => n + 5
  | .dist13 n _ => n + 5
  | .dist14 n _ => n + 6
  | .dist15 n _ => n + 6
  | .dist16 n _ => n + 7
  | .dist17 n _ => n + 7
  | .dist18 n _ => n + 8
  | .dist19 n _ => n + 8
  | .dist20 n _ => n + 9
  | .dist21 n _ => n + 9
  | .dist22 n _ => n + 10
  | .dist23 n _ => n + 10
  | .dist24 n _ => n + 11
  | .dist25 n _ => n + 11
  | .dist26 n _ => n + 12
  | .dist27 n _ => n + 12
  | .dist28 n _ => n + 13
  | .dist29 n _ => n + 13
  | .distReserved30 n => n
  | .distReserved31 n => n

/-- The elements LEN_257 .. LEN_285 in one view (43_block_body.md R214): the length symbol, the length of its code and
the value of its extra bits. -/
def Instr.asLength : Instr → Option (Nat × Nat × Nat)
  | .bfinal _ => none
  | .btypeStored => none
  | .btypeFixed => none
  | .btypeDynamic => none
  | .btypeReserved => none
  | .storedHdr _ _ => none
  | .storedByte _ => none
  | .storedEnd => none
  | .hlit _ => none
  | .hlitReserved _ => none
  | .hdist _ => none
  | .hclen _ => none
  | .cllen _ => none
  | .clLen _ _ => none
  | .clRepPrev _ _ => none
  | .clZeroShort _ _ => none
  | .clZeroLong _ _ => none
  | .lit _ _ => none
  | .eob _ => none
  | .len257 n => some (257, n, 0)
  | .len258 n => some (258, n, 0)
  | .len259 n => some (259, n, 0)
  | .len260 n => some (260, n, 0)
  | .len261 n => some (261, n, 0)
  | .len262 n => some (262, n, 0)
  | .len263 n => some (263, n, 0)
  | .len264 n => some (264, n, 0)
  | .len265 n lext => some (265, n, lext.toNat)
  | .len266 n lext => some (266, n, lext.toNat)
  | .len267 n lext => some (267, n, lext.toNat)
  | .len268 n lext => some (268, n, lext.toNat)
  | .len269 n lext => some (269, n, lext.toNat)
  | .len270 n lext => some (270, n, lext.toNat)
  | .len271 n lext => some (271, n, lext.toNat)
  | .len272 n lext => some (272, n, lext.toNat)
  | .len273 n lext => some (273, n, lext.toNat)
  | .len274 n lext => some (274, n, lext.toNat)
  | .len275 n lext => some (275, n, lext.toNat)
  | .len276 n lext => some (276, n, lext.toNat)
  | .len277 n lext => some (277, n, lext.toNat)
  | .len278 n lext => some (278, n, lext.toNat)
  | .len279 n lext => some (279, n, lext.toNat)
  | .len280 n lext => some (280, n, lext.toNat)
  | .len281 n lext => some (281, n, lext.toNat)
  | .len282 n lext => some (282, n, lext.toNat)
  | .len283 n lext => some (283, n, lext.toNat)
  | .len284 n lext => some (284, n, lext.toNat)
  | .len285 n => some (285, n, 0)
  | .litlenReserved286 _ => none
  | .litlenReserved287 _ => none
  | .dist0 _ => none
  | .dist1 _ => none
  | .dist2 _ => none
  | .dist3 _ => none
  | .dist4 _ _ => none
  | .dist5 _ _ => none
  | .dist6 _ _ => none
  | .dist7 _ _ => none
  | .dist8 _ _ => none
  | .dist9 _ _ => none
  | .dist10 _ _ => none
  | .dist11 _ _ => none
  | .dist12 _ _ => none
  | .dist13 _ _ => none
  | .dist14 _ _ => none
  | .dist15 _ _ => none
  | .dist16 _ _ => none
  | .dist17 _ _ => none
  | .dist18 _ _ => none
  | .dist19 _ _ => none
  | .dist20 _ _ => none
  | .dist21 _ _ => none
  | .dist22 _ _ => none
  | .dist23 _ _ => none
  | .dist24 _ _ => none
  | .dist25 _ _ => none
  | .dist26 _ _ => none
  | .dist27 _ _ => none
  | .dist28 _ _ => none
  | .dist29 _ _ => none
  | .distReserved30 _ => none
  | .distReserved31 _ => none

/-- The elements DIST_0 .. DIST_29 in one view (43_block_body.md R216): the distance symbol, the length of its code and
the value of its extra bits. -/
def Instr.asDistance : Instr → Option (Nat × Nat × Nat)
  | .bfinal _ => none
  | .btypeStored => none
  | .btypeFixed => none
  | .btypeDynamic => none
  | .btypeReserved => none
  | .storedHdr _ _ => none
  | .storedByte _ => none
  | .storedEnd => none
  | .hlit _ => none
  | .hlitReserved _ => none
  | .hdist _ => none
  | .hclen _ => none
  | .cllen _ => none
  | .clLen _ _ => none
  | .clRepPrev _ _ => none
  | .clZeroShort _ _ => none
  | .clZeroLong _ _ => none
  | .lit _ _ => none
  | .eob _ => none
  | .len257 _ => none
  | .len258 _ => none
  | .len259 _ => none
  | .len260 _ => none
  | .len261 _ => none
  | .len262 _ => none
  | .len263 _ => none
  | .len264 _ => none
  | .len265 _ _ => none
  | .len266 _ _ => none
  | .len267 _ _ => none
  | .len268 _ _ => none
  | .len269 _ _ => none
  | .len270 _ _ => none
  | .len271 _ _ => none
  | .len272 _ _ => none
  | .len273 _ _ => none
  | .len274 _ _ => none
  | .len275 _ _ => none
  | .len276 _ _ => none
  | .len277 _ _ => none
  | .len278 _ _ => none
  | .len279 _ _ => none
  | .len280 _ _ => none
  | .len281 _ _ => none
  | .len282 _ _ => none
  | .len283 _ _ => none
  | .len284 _ _ => none
  | .len285 _ => none
  | .litlenReserved286 _ => none
  | .litlenReserved287 _ => none
  | .dist0 n => some (0, n, 0)
  | .dist1 n => some (1, n, 0)
  | .dist2 n => some (2, n, 0)
  | .dist3 n => some (3, n, 0)
  | .dist4 n dext => some (4, n, dext.toNat)
  | .dist5 n dext => some (5, n, dext.toNat)
  | .dist6 n dext => some (6, n, dext.toNat)
  | .dist7 n dext => some (7, n, dext.toNat)
  | .dist8 n dext => some (8, n, dext.toNat)
  | .dist9 n dext => some (9, n, dext.toNat)
  | .dist10 n dext => some (10, n, dext.toNat)
  | .dist11 n dext => some (11, n, dext.toNat)
  | .dist12 n dext => some (12, n, dext.toNat)
  | .dist13 n dext => some (13, n, dext.toNat)
  | .dist14 n dext => some (14, n, dext.toNat)
  | .dist15 n dext => some (15, n, dext.toNat)
  | .dist16 n dext => some (16, n, dext.toNat)
  | .dist17 n dext => some (17, n, dext.toNat)
  | .dist18 n dext => some (18, n, dext.toNat)
  | .dist19 n dext => some (19, n, dext.toNat)
  | .dist20 n dext => some (20, n, dext.toNat)
  | .dist21 n dext => some (21, n, dext.toNat)
  | .dist22 n dext => some (22, n, dext.toNat)
  | .dist23 n dext => some (23, n, dext.toNat)
  | .dist24 n dext => some (24, n, dext.toNat)
  | .dist25 n dext => some (25, n, dext.toNat)
  | .dist26 n dext => some (26, n, dext.toNat)
  | .dist27 n dext => some (27, n, dext.toNat)
  | .dist28 n dext => some (28, n, dext.toNat)
  | .dist29 n dext => some (29, n, dext.toNat)
  | .distReserved30 _ => none
  | .distReserved31 _ => none

namespace Machine

/-- A table a build may have written, of symbols below `bound`: `counts[0] = 0`, as many symbols as the counts say
(41_huffman.md R150), and each of them a symbol of the alphabet (R158). -/
abbrev Tree.Legal (t : Tree) (bound : Nat) : Prop :=
  t.count 0 = 0 ∧ t.symbols.length = ((List.range 16).map t.count).sum ∧ ∀ x ∈ t.symbols, x.toNat < bound

/-- The table memory `new` is `old` after a build has written the tree `t` to it: it holds `t`, and its entries past the
symbols of `t` are those of `old` (41_huffman.md R151, R153). -/
structure TreeTable.Written {cw sw size : Nat} (old : TreeTable cw sw size) (t : Tree) (new : TreeTable cw sw size) :
    Prop where
  holds : new.tree = t
  rest : ∀ j, t.symbols.length ≤ j → new.symbols[j]? = old.symbols[j]?

/-- HLIT as accepted (10_state.md R28). -/
abbrev State.HlitOk (s : State) : Prop := 257 ≤ s.hlit.toNat ∧ s.hlit.toNat ≤ 286

/-- HDIST as decoded (10_state.md R28). -/
abbrev State.HdistOk (s : State) : Prop := 1 ≤ s.hdist.toNat ∧ s.hdist.toNat ≤ 32

/-- HCLEN as decoded (10_state.md R28). -/
abbrev State.HclenOk (s : State) : Prop := 4 ≤ s.hclen.toNat ∧ s.hclen.toNat ≤ 19

/-- What holds of the registers a phase works with. -/
abbrev State.PhaseOk (s : State) : Prop :=
  match s.phase with
  | .storedData => s.storedRem ≠ 0 ∧ s.p.toNat % 8 = 0
  | .storedEnd => s.p.toNat % 8 = 0
  | .dynHdist => s.HlitOk
  | .dynHclen => s.HlitOk ∧ s.HdistOk
  | .dynCllen => s.HlitOk ∧ s.HdistOk ∧ s.HclenOk ∧ s.cli.toNat < s.hclen.toNat
  | .dynLens => s.HlitOk ∧ s.HdistOk ∧ s.num.toNat < s.totalLens ∧ s.clt.tree.Legal 19
  | .body => s.active = 0 ∨ (s.dlt.tree.Legal 286 ∧ s.ddt.tree.Legal 32)
  | _ => True

/-- The invariant of the engine between two steps. -/
structure State.Inv (s : State) : Prop where
  /-- SRC is in canonical form. -/
  srcWf : s.src.wf
  /-- DST is in canonical form. -/
  dstWf : s.dst.wf
  /-- `P ≤ 8·N` (10_state.md R21). -/
  posInSrc : s.p.toNat ≤ 8 * s.runN.toNat
  /-- `N ≤ 2^29 - 1`, so that `8·N` fits in BIT_POS (00_scope.md R7). -/
  runNBound : s.runN.toNat < 2 ^ 29
  /-- SRC_LEN is within the same bound (46_host_interface.md R304). -/
  srcLenBound : s.srcLen.toNat < 2 ^ 29
  /-- `OUTLEN ≤ C` (10_state.md R23). -/
  outInDst : s.outlen.toNat ≤ s.runC.toNat
  /-- BTYPE holds 0, 1 or 2 (10_state.md R26). -/
  btypeOk : s.btype ≠ 3
  /-- No back-reference is half done (44_block_machine.md R240). -/
  noMatch : s.matchPart = none
  /-- The registers of the phase. -/
  phaseOk : s.PhaseOk

/-- Spans that follow one another without gap or overlap from position `a` to position `b` (45_trace.md R278). -/
def tiles : (a : Nat) → List Span → (b : Nat) → Prop
  | a, [], b => a = b
  | a, sp :: rest, b => sp.index.toNat = a ∧ tiles (a + sp.length.toNat) rest b

/-- Where the tiling ends: the byte boundary at DONE (45_trace.md R280, R281), otherwise P (R278; after a fault P is
ERR_POS, R282). -/
def State.tileEnd (s : State) : Nat := if s.phase = .done then roundup8 s.p.toNat else s.p.toNat

/-- The trace tiles the consumed bits. -/
def State.Tiled (s : State) : Prop := tiles 0 (s.trace.map TraceRecord.span) s.tileEnd

/-- X of 45_trace.md R283: every literal and every produced byte, in trace order. -/
def State.text (s : State) : List Byte := s.trace.flatMap TraceRecord.text

/-- The text of the trace is what DST holds (45_trace.md R283): all of `DST[0..OUTLEN)`, but after a fault a prefix of
it. -/
structure State.TextOk (s : State) : Prop where
  bytes : ∀ i, (h : i < s.text.length) → s.dst.read i = s.text[i]
  within : s.text.length ≤ s.outlen.toNat
  whole : s.phase ≠ .error → s.text.length = s.outlen.toNat

/-- The buffered reader agrees with position `p` (10_state.md R40): `P = 8·SRCIDX - BITCNT`, nothing at an index `≥ N`
has been loaded, and BITBUF holds the stream bits from P on, the bit at P in bit 0, and zeros above them. -/
structure BitCursor.Coherent (c : BitCursor) (src : Memory) (n p : Nat) : Prop where
  position : p + c.bitCnt.toNat = 8 * c.srcIdx.toNat
  loaded : c.srcIdx.toNat ≤ n
  buffer : ∀ k, k < 32 → c.bitBuf.getLsbD k = (decide (k < c.bitCnt.toNat) && streamBit src (p + k))

/-- The buffered reader of the engine is coherent while a run is in progress; after a fault it is unspecified
(60_exceptions.md R336), and between runs the host may change SRC. -/
def State.CursorOk (s : State) : Prop :=
  s.busy = true → s.cursor.Coherent s.src s.runN.toNat s.p.toNat

/-- The successors of a phase besides ERROR (44_block_machine.md R240). -/
def Phase.successors : Phase → List Phase
  | .idle => []
  | .hdrBfinal => [.hdrBtype]
  | .hdrBtype => [.storedHdr, .body, .dynHlit]
  | .storedHdr => [.storedData, .storedEnd]
  | .storedData => [.storedData, .storedEnd]
  | .storedEnd => [.hdrBfinal, .done]
  | .dynHlit => [.dynHdist]
  | .dynHdist => [.dynHclen]
  | .dynHclen => [.dynCllen]
  | .dynCllen => [.dynCllen, .dynLens]
  | .dynLens => [.dynLens, .body]
  | .body => [.body, .hdrBfinal, .done]
  | .done => []
  | .error => []

/-- The tags of the records a step of each phase may emit (44_block_machine.md R240; the tags are those of 45_trace.md
R272). -/
def Phase.recordTags : Phase → List (BitVec 4)
  | .idle => []
  | .hdrBfinal => [1]
  | .hdrBtype => [2]
  | .storedHdr => [11]
  | .storedData => [8]
  | .storedEnd => [10]
  | .dynHlit => [3]
  | .dynHdist => [4]
  | .dynHclen => [5]
  | .dynCllen => [6]
  | .dynLens => [6, 7]
  | .body => [8, 9, 10]
  | .done => []
  | .error => []

/-- The span lengths of 45_trace.md R279. -/
def TraceRecord.LengthOk (r : TraceRecord) : Prop :=
  match r with
  | .bfinal _ sp => sp.length = 1
  | .btype _ sp => sp.length = 2
  | .hlit _ sp => sp.length = 5
  | .hdist _ sp => sp.length = 5
  | .hclen _ sp => sp.length = 4
  | .codeLength .runLengthTable _ _ sp => sp.length = 3
  | .codeLength _ _ _ sp => 1 ≤ sp.length.toNat ∧ sp.length.toNat ≤ 15
  | .repeatCodeLength _ _ _ _ _ sp => 3 ≤ sp.length.toNat ∧ sp.length.toNat ≤ 22
  | .literal _ sp => 1 ≤ sp.length.toNat ∧ sp.length.toNat ≤ 15
  | .lz77 _ _ _ _ _ _ sp _ => 2 ≤ sp.length.toNat ∧ sp.length.toNat ≤ 48
  | .blockEnd sp => sp.length.toNat ≤ 22
  | .storedHeader _ _ _ sp => 32 ≤ sp.length.toNat ∧ sp.length.toNat ≤ 39

/-- The placement loop of `build` (41_huffman.md R151), as its pseudocode has it: symbol `i` of length `l ≠ 0` goes to
`symbols[offs[l]]`, and `offs[l]` moves on. -/
def placeLoop : (i : Nat) → (lengths offs : List Nat) → (symbols : List (BitVec 9)) → List (BitVec 9)
  | _, [], _, symbols => symbols
  | i, l :: rest, offs, symbols =>
    if l = 0 then placeLoop (i + 1) rest offs symbols
    else placeLoop (i + 1) rest (offs.set l (offs.getD l 0 + 1)) (symbols.set (offs.getD l 0) (BitVec.ofNat 9 i))

/-- The prefix sums of `build` (41_huffman.md R151): `for l in 0..15: offs[l] <- s; s <- s + counts[l]`. -/
def prefixSums : (s : Nat) → List Nat → List Nat
  | _, [] => []
  | s, c :: rest => s :: prefixSums (s + c) rest

/-- `build(L)` as the pseudocode of 41_huffman.md R151 has it: count, force `counts[0]` to 0, form the prefix sums, place
the symbols in increasing order. The model's `build` lists the symbols by length instead. -/
def buildByPlacement (lengths : List Nat) : Tree :=
  let counts := (List.range 16).map fun l => if l = 0 then 0 else lengths.count l
  { counts := Vector.ofFn fun l : Fin 16 => BitVec.ofNat 9 (counts.getD l.val 0)
    symbols := placeLoop 0 lengths (prefixSums 0 counts) (List.replicate counts.sum 0) }

/-- A run that nothing from outside touches: the engine alone takes the steps, and the trace port's consumer accepts
every record (46_host_interface.md R310, step 5). -/
abbrev State.Undisturbed (s : State) : Prop := s.host = [] ∧ s.traceReady = true

end Machine

end Sys2Proof
end

