-- ==== Sys2Proof/Certificates/Slice0/Obligations.lean ====
section
/-! DEFINITION. The statements about the engine. The instruction statements give the WHOLE next state: everything the
record update of `s` does not name is unchanged. The buffered reader (`cursor`) is left open there, since it is no
architectural state (40_bitcursor.md R131); its own statement is `ReaderStaysCoherent`. -/

open Sys2Proof Sys2Proof.Machine

/-! ## Reset, decoding and the step -/

/-- 10_state.md R43, "after reset", for everything the rule gives a value. What it leaves open is not named. -/
def Obligations.ResetLeavesIdleEngine : Prop :=
  State.reset.phase = .idle ∧ State.reset.p = 0 ∧ State.reset.outlen = 0 ∧ State.reset.bfinal = 0 ∧
    State.reset.btype = 0 ∧ State.reset.active = 0 ∧ State.reset.hlit = 0 ∧ State.reset.hdist = 0 ∧
    State.reset.hclen = 0 ∧ State.reset.cli = 0 ∧ State.reset.num = 0 ∧ State.reset.storedRem = 0 ∧
    State.reset.errcode = .none ∧ State.reset.trace = [] ∧ State.reset.traceCount = 0 ∧
    State.reset.cursor = { srcIdx := 0, bitBuf := 0, bitCnt := 0 } ∧
    State.reset.srcLen = 0 ∧ State.reset.dstCap = 0 ∧ State.reset.busy = false ∧
    (∀ r : Reg, State.reset.readReg r = 0)

/-- 30_encoding.md R82, R88: what a few bit sequences, written out from the formats, decode to. -/
def Obligations.SpecBitsDecodeToTheirElements : Prop :=
  let d := fun (f : Format) (align : Nat) (bits : List Bool) =>
    decode f { tableCtx with align := align } bits
  d .f1 0 [true] = .ok (.bfinal 1, []) ∧
  d .f2 1 [true, false, true] = .ok (.btypeFixed, [true]) ∧
  d .f2 1 [false, true] = .ok (.btypeDynamic, []) ∧
  d .f5h 0 [true, false, false, false, false] = .ok (.hlit 1, []) ∧
  d .f5h 0 [true, true, true, true, true] = .ok (.hlitReserved 1, []) ∧
  d .f4 0 [false, true, true, true] = .ok (.hclen 14, []) ∧
  d .f3 0 [true, false, false] = .ok (.cllen 1, []) ∧
  d .llsym 0 [true, false, false, true, false, false, false, true] = .ok (.lit 8 97, []) ∧
  d .llsym 0 [false, false, false, false, false, false, false] = .ok (.eob 7, []) ∧
  d .llsym 0 [false, false, false, true, false, false, true, true] = .ok (.len265 7 1, []) ∧
  d .dsym 0 [false, false, true, false, false, true] = .ok (.dist4 5 1, [])

/-- A step runs the element it decodes at P (30_encoding.md R80; 44_block_machine.md R240): every element but the length
part of a back-reference. -/
def Obligations.StepRunsTheDecodedElement : Prop :=
  ∀ (s : State) (f : Format) (i : Instr) (rest : List Bool), s.Undisturbed → s.elementFormat = some f →
    decode f s.decodeCtx s.fetchBits = .ok (i, rest) → i.asLength = none →
    step s = exec i s

/-- A step that decodes a length part goes on with the distance part it decodes after it (43_block_body.md R214, R216):
one step for the whole back-reference (44_block_machine.md R240). -/
def Obligations.StepRunsLengthThenDistance : Prop :=
  ∀ (s t : State) (i j : Instr) (q : MatchPart) (rest rest' : List Bool), s.Undisturbed →
    s.elementFormat = some .llsym → decode .llsym s.decodeCtx s.fetchBits = .ok (i, rest) → i.asLength ≠ none →
    exec i s = .next t → t.matchPart = some q → decode .dsym t.decodeCtx t.fetchBits = .ok (j, rest') →
    step s = exec j t

/-- Where no element can be decoded at P, the step raises the error the decode met, at P; and where the distance part of
a back-reference cannot be decoded, at the start of its length code (40_bitcursor.md R127; 41_huffman.md R156, R157;
42_dynamic_trees.md R187; 60_exceptions.md R335). -/
def Obligations.UndecodableElementRaises : Prop :=
  (∀ (s : State) (f : Format) (err : DecodeError), s.Undisturbed → s.elementFormat = some f → f ≠ .dsym →
    decode f s.decodeCtx s.fetchBits = .error err → err ≠ .noTableEntry →
    ∃ c k, step s = .next
      { s with
        errcode := match err with
          | .truncated => .truncatedStream
          | .invalidCode => .invalidCode
          | _ => .invalidStream
        phase := .error, matchPart := none, cursor := c, freeCount := k }) ∧
  (∀ (s t : State) (i : Instr) (q : MatchPart) (rest : List Bool) (err : DecodeError), s.Undisturbed →
    s.elementFormat = some .llsym → decode .llsym s.decodeCtx s.fetchBits = .ok (i, rest) → i.asLength ≠ none →
    exec i s = .next t → t.matchPart = some q → decode .dsym t.decodeCtx t.fetchBits = .error err →
    err ≠ .noTableEntry →
    ∃ c k, step s = .next
      { s with
        errcode := match err with
          | .truncated => .truncatedStream
          | .invalidCode => .invalidCode
          | _ => .invalidStream
        phase := .error, matchPart := none, cursor := c, freeCount := k })

/-- 44_block_machine.md R240, 60_exceptions.md R347: in IDLE, DONE and ERROR the engine changes nothing. -/
def Obligations.QuietPhasesDoNothing : Prop :=
  ∀ s : State, s.host = [] → s.phase = .idle ∨ s.phase = .done ∨ s.phase = .error → step s = .next s

/-- The table of 44_block_machine.md R240: a step of a busy engine either raises, with no record, or goes to a successor
of its phase and emits exactly one record, of a kind its phase emits. -/
def Obligations.StepFollowsThePhaseTable : Prop :=
  ∀ s t : State, s.Undisturbed → s.busy = true → step s = .next t →
    (t.phase = .error ∧ t.trace = s.trace) ∨
    (t.phase ∈ s.phase.successors ∧
      ∃ r, r.tag ∈ s.phase.recordTags ∧ t.trace = s.trace ++ [r] ∧ t.traceCount = s.traceCount + 1)

/-! ## Stream bits and the bit reader -/

/-- 20_memory.md R65, R66, R67: stream bit `p` is bit `p mod 8` of SRC[p div 8]; a field is read least significant bit
first; a 16-bit field at a byte boundary is little-endian. -/
def Obligations.FieldsAreLittleEndian : Prop :=
  (∀ (src : Memory) (p : Nat), streamBit src p = ((src.read (p / 8)).toNat / 2 ^ (p % 8) % 2 == 1)) ∧
  (∀ (src : Memory) (p w : Nat), bitsToNat (streamBits src p w) =
    ((List.range w).map fun k => (streamBit src (p + k)).toNat * 2 ^ k).sum) ∧
  (∀ (src : Memory) (i : Nat), bitsToNat (streamBits src (8 * i) 16) =
    (src.read i).toNat + 256 * (src.read (i + 1)).toNat)

/-- 40_bitcursor.md R124: a read of no bits consumes nothing, changes nothing and raises nothing, even at P = 8·N, and
the value is the base alone: every length and distance row with no extra bits gives its base, and the span is
`span(P, 0)`. -/
def Obligations.ZeroWidthReadDoesNothing : Prop :=
  (∀ (s : State) (e : Word) (k : State → Res), s.p.toNat ≤ 8 * s.runN.toNat → reading [0] e s k = k s) ∧
  (∀ (bits : List Bool) (k : BitVec 0 → List Bool → Decoded), takeField 0 bits k = k 0 bits) ∧
  (∀ (i : Instr) (sym n lext : Nat), i.asLength = some (sym, n, lext) → lbits (sym - 257) = 0 →
    matchLength sym lext = lbase (sym - 257)) ∧
  (∀ (i : Instr) (d n dext : Nat), i.asDistance = some (d, n, dext) → dbits d = 0 →
    matchDistance d dext = dbase d) ∧
  (∀ s : State, (spanAt s.p 0).index = s.p ∧ (spanAt s.p 0).length = 0)

/-- 40_bitcursor.md R131: while the buffered reader agrees with P, its read gives the field at P, or nothing exactly
where fewer bits are left, and its alignment moves to the byte boundary; and it agrees with P after. -/
def Obligations.BufferedReaderFollowsP : Prop :=
  ∀ (c : BitCursor) (src : Memory) (n p : Nat), n < 2 ^ 29 → c.Coherent src n p →
    (∀ w, 1 ≤ w → w ≤ 16 →
      (p + w ≤ 8 * n → ∃ c', c.read src n w = some (BitVec.ofNat 32 (bitsToNat (streamBits src p w)), c') ∧
        c'.Coherent src n (p + w)) ∧
      (8 * n < p + w → c.read src n w = none)) ∧
    c.align.Coherent src n (p + padOf p) ∧ c.align.srcIdx.toNat = (p + padOf p) / 8

/-! ## Huffman tables -/

/-- 41_huffman.md R150: `counts[l]` is the number of symbols of length `l`, `counts[0]` is 0, `symbols` lists the symbols
of nonzero length sorted by length and then by symbol number, and T is the sum of the counts. -/
def Obligations.BuildSortsSymbolsByLength : Prop :=
  ∀ lengths : List Nat, lengths.length ≤ 288 → (∀ l ∈ lengths, l ≤ 15) →
    let t := build lengths
    t.count 0 = 0 ∧ (∀ l, 1 ≤ l → l ≤ 15 → t.count l = lengths.count l) ∧
    t.symbols.Pairwise (fun x y =>
      lengths.getD x.toNat 0 < lengths.getD y.toNat 0 ∨
        (lengths.getD x.toNat 0 = lengths.getD y.toNat 0 ∧ x.toNat < y.toNat)) ∧
    (∀ x : BitVec 9, x ∈ t.symbols ↔ x.toNat < lengths.length ∧ lengths.getD x.toNat 0 ≠ 0) ∧
    t.symbols.length = ((List.range 16).map t.count).sum

/-- 41_huffman.md R151: the model's `build` is the algorithm of the rule. -/
def Obligations.BuildIsThePlacementAlgorithm : Prop :=
  ∀ lengths : List Nat, lengths.length ≤ 288 → (∀ l ∈ lengths, l ≤ 15) → build lengths = buildByPlacement lengths

/-- 41_huffman.md R154: the decode loop decodes exactly the canonical codes: every code of a built tree decodes to its
symbol, and whatever decodes is the canonical code of its symbol. -/
def Obligations.DecodesExactlyTheCanonicalCodes : Prop :=
  ∀ lengths : List Nat, lengths.length ≤ 288 → (∀ l ∈ lengths, l ≤ 15) →
    ∀ (sym n : Nat) (bits rest : List Bool), decodeSymbol (build lengths) bits = .ok (sym, n, rest) ↔
      1 ≤ n ∧ n ≤ 15 ∧ ∃ code, encodeSymbol (build lengths) n sym = some code ∧ bits = code ++ rest

/-- 41_huffman.md R161, R162: the fixed trees are the builds of the fixed lengths. -/
def Obligations.FixedTreesAreBuilds : Prop :=
  fixedLit = build fixedLitLengths ∧ fixedDist = build fixedDistLengths

/-- 41_huffman.md R163: the codes of the fixed trees. -/
def Obligations.FixedCodesAreTheTable : Prop :=
  (∀ sym, sym < 144 → encodeSymbol fixedLit 8 sym = some (codeBits 8 (0x30 + sym))) ∧
  (∀ sym, 144 ≤ sym → sym < 256 → encodeSymbol fixedLit 9 sym = some (codeBits 9 (0x190 + (sym - 144)))) ∧
  (∀ sym, 256 ≤ sym → sym < 280 → encodeSymbol fixedLit 7 sym = some (codeBits 7 (sym - 256))) ∧
  (∀ sym, 280 ≤ sym → sym < 288 → encodeSymbol fixedLit 8 sym = some (codeBits 8 (0xC0 + (sym - 280)))) ∧
  (∀ sym, sym < 32 → encodeSymbol fixedDist 5 sym = some (codeBits 5 sym))

/-- 41_huffman.md R156, R157, R159: a decode that fails with fewer than 15 bits left is truncated, one that fails with 15
or more is invalid, in a tree a build may have written; and in the empty tree every decode fails. -/
def Obligations.DecodeFailsByTheBitsLeft : Prop :=
  (∀ (t : Tree) (bound : Nat) (bits : List Bool) (err : DecodeError), t.Legal bound →
    decodeSymbol t bits = .error err → err = if bits.length < 15 then .truncated else .invalidCode) ∧
  (∀ bits : List Bool, decodeSymbol Tree.empty bits = .error (if bits.length < 15 then .truncated else .invalidCode))

/-- The tables of 43_block_body.md R215 and R217 in the form their rules describe: the lengths of symbols 257 to 284 run
from 3 to 258 without a gap but for the last row's end, symbol 285 is 258 alone, and the distances run from 1 to 32768
without a gap. -/
def Obligations.LengthAndDistanceTables : Prop :=
  lbase 0 = 3 ∧ (∀ i, i < 27 → lbase (i + 1) = lbase i + 2 ^ lbits i) ∧ lbase 27 + 2 ^ lbits 27 = 259 ∧
  (∀ i, i < 28 → lbits i = (i - 4) / 4) ∧ lbits 28 = 0 ∧ lbase 28 = 258 ∧
  dbase 0 = 1 ∧ (∀ d, d < 29 → dbase (d + 1) = dbase d + 2 ^ dbits d) ∧ dbase 29 + 2 ^ dbits 29 = 32769 ∧
  (∀ d, d < 30 → dbits d = (d - 2) / 2)

/-! ## Encoding -/

/-- Decoding the encoding of a well-formed element gives the element and the bits after it, for every element, in every
context whose trees give its symbol a code. Code-length symbol 16 needs a previous length (42_dynamic_trees.md R187). -/
def Obligations.DecodeInvertsEncode : Prop :=
  ∀ (c : DecodeCtx) (i : Instr) (bits rest : List Bool), i.wellFormed = true →
    (∀ n rep, i = .clRepPrev n rep → c.noPrevious = false) → encode c i = some bits →
    decode i.format c (bits ++ rest) = .ok (i, rest) ∧ bits.length = i.width c.align

/-! ## Steps of the header phases, from the stream bits -/

/-- 44_block_machine.md R241. -/
def Obligations.BfinalStepLatchesTheBit : Prop :=
  ∀ s : State, s.Undisturbed → s.phase = .hdrBfinal →
    if 8 * s.runN.toNat < s.p.toNat + 1 then
      ∃ c k, step s = .next
        { s with errcode := .truncatedStream, phase := .error, matchPart := none, cursor := c, freeCount := k }
    else
      let v := BitVec.ofBool (streamBit s.src s.p.toNat)
      ∃ c, step s = .next
        { s with
          p := s.p + 1, cursor := c, bfinal := v, phase := .hdrBtype
          trace := s.trace ++ [.bfinal v { index := s.p, length := 1 }], traceCount := s.traceCount + 1 }

/-- 44_block_machine.md R242. -/
def Obligations.BtypeStepSelectsTheBlock : Prop :=
  ∀ s : State, s.Undisturbed → s.phase = .hdrBtype →
    if 8 * s.runN.toNat < s.p.toNat + 2 then
      ∃ c k, step s = .next
        { s with errcode := .truncatedStream, phase := .error, matchPart := none, cursor := c, freeCount := k }
    else
      let v := BitVec.ofNat 2
        ((streamBit s.src s.p.toNat).toNat + 2 * (streamBit s.src (s.p.toNat + 1)).toNat)
      if v = 3 then
        ∃ c k, step s = .next
          { s with errcode := .invalidBlockType, phase := .error, matchPart := none, cursor := c, freeCount := k }
      else
        ∃ c, step s = .next
          { s with
            p := s.p + 2, cursor := c, btype := v
            active := if v = 1 then 0 else s.active
            phase := if v = 0 then .storedHdr else if v = 1 then .body else .dynHlit
            trace := s.trace ++ [.btype v { index := s.p, length := 2 }], traceCount := s.traceCount + 1 }

/-- 42_dynamic_trees.md R181. -/
def Obligations.HdistStepReadsTheCount : Prop :=
  ∀ s : State, s.Undisturbed → s.phase = .dynHdist →
    if 8 * s.runN.toNat < s.p.toNat + 5 then
      ∃ c k, step s = .next
        { s with errcode := .truncatedStream, phase := .error, matchPart := none, cursor := c, freeCount := k }
    else
      let v := BitVec.ofNat 6 (1 + bitsToNat (streamBits s.src s.p.toNat 5))
      ∃ c, step s = .next
        { s with
          p := s.p + 5, cursor := c, hdist := v, phase := .dynHclen
          trace := s.trace ++ [.hdist v { index := s.p, length := 5 }], traceCount := s.traceCount + 1 }

/-- 43_block_body.md R211, at the step: a symbol below 256 of the active literal/length tree, and what its decode
raises. -/
def Obligations.LiteralStepAppendsTheByte : Prop :=
  ∀ s : State, s.Undisturbed → s.phase = .body → s.matchPart = none →
    (∀ (sym n : Nat) (rest : List Bool), decodeSymbol s.litTree s.fetchBits = .ok (sym, n, rest) → sym < 256 →
      if s.outlen = s.runC then
        ∃ c k, step s = .next { s with errcode := .outputOverflow, phase := .error, cursor := c, freeCount := k }
      else
        ∃ c, step s = .next
          { s with
            p := s.p + BitVec.ofNat 32 n, cursor := c
            dst := s.dst.write s.outlen.toNat (BitVec.ofNat 8 sym), outlen := s.outlen + 1
            trace := s.trace ++ [.literal (BitVec.ofNat 8 sym) { index := s.p, length := BitVec.ofNat 8 n }]
            traceCount := s.traceCount + 1 }) ∧
    (decodeSymbol s.litTree s.fetchBits = .error .truncated →
      ∃ c k, step s = .next { s with errcode := .truncatedStream, phase := .error, cursor := c, freeCount := k }) ∧
    (decodeSymbol s.litTree s.fetchBits = .error .invalidCode →
      ∃ c k, step s = .next { s with errcode := .invalidCode, phase := .error, cursor := c, freeCount := k })

/-! ## The instructions, one by one -/

/-- 44_block_machine.md R241, R242, R243: BFINAL, BTYPE_STORED, BTYPE_FIXED, BTYPE_DYNAMIC, BTYPE_RESERVED. -/
def Obligations.BlockHeaderElements : Prop :=
  (∀ (s : State) (b : BitVec 1), s.hasBits 1 → ∃ c, exec (.bfinal b) s = .next
    { s with
      p := s.p + 1, cursor := c, bfinal := b, phase := .hdrBtype
      trace := s.trace ++ [.bfinal b { index := s.p, length := 1 }], traceCount := s.traceCount + 1 }) ∧
  (∀ s : State, s.hasBits 2 → ∃ c, exec .btypeStored s = .next
    { s with
      p := s.p + 2, cursor := c, btype := 0, phase := .storedHdr
      trace := s.trace ++ [.btype 0 { index := s.p, length := 2 }], traceCount := s.traceCount + 1 }) ∧
  (∀ s : State, s.hasBits 2 → ∃ c, exec .btypeFixed s = .next
    { s with
      p := s.p + 2, cursor := c, btype := 1, active := 0, phase := .body
      trace := s.trace ++ [.btype 1 { index := s.p, length := 2 }], traceCount := s.traceCount + 1 }) ∧
  (∀ s : State, s.hasBits 2 → ∃ c, exec .btypeDynamic s = .next
    { s with
      p := s.p + 2, cursor := c, btype := 2, phase := .dynHlit
      trace := s.trace ++ [.btype 2 { index := s.p, length := 2 }], traceCount := s.traceCount + 1 }) ∧
  (∀ s : State, s.hasBits 2 → ∃ c k, exec .btypeReserved s = .next
    { s with errcode := .invalidBlockType, phase := .error, matchPart := none, cursor := c, freeCount := k })

/-- 44_block_machine.md R244, R245: STORED_HDR. -/
def Obligations.StoredHeaderElement : Prop :=
  (∀ (s : State) (len nlen : BitVec 16), s.hasBits (padOf s.p.toNat + 32) → len = ~~~nlen →
    ∃ c, exec (.storedHdr len nlen) s = .next
      { s with
        p := s.p + BitVec.ofNat 32 (padOf s.p.toNat) + 32, cursor := c, storedRem := len
        phase := if len = 0 then .storedEnd else .storedData
        trace := s.trace ++ [.storedHeader (BitVec.ofNat 3 (padOf s.p.toNat)) len nlen
          { index := s.p, length := BitVec.ofNat 8 (padOf s.p.toNat + 32) }]
        traceCount := s.traceCount + 1 }) ∧
  (∀ (s : State) (len nlen : BitVec 16), s.hasBits (padOf s.p.toNat + 32) → len.toNat + nlen.toNat ≠ 0xFFFF →
    ∃ c k, exec (.storedHdr len nlen) s = .next
      { s with errcode := .blockLengthMismatch, phase := .error, matchPart := none, cursor := c, freeCount := k })

/-- 44_block_machine.md R246, R247: STORED_BYTE and STORED_END. -/
def Obligations.StoredByteAndEndElements : Prop :=
  (∀ (s : State) (v : Byte), s.hasBits 8 → s.outlen ≠ s.runC → ∃ c, exec (.storedByte v) s = .next
    { s with
      p := s.p + 8, cursor := c, dst := s.dst.write s.outlen.toNat v, outlen := s.outlen + 1
      storedRem := s.storedRem - 1, phase := if s.storedRem = 1 then .storedEnd else s.phase
      trace := s.trace ++ [.literal v { index := s.p, length := 8 }], traceCount := s.traceCount + 1 }) ∧
  (∀ (s : State) (v : Byte), s.hasBits 8 → s.outlen = s.runC → ∃ c k, exec (.storedByte v) s = .next
    { s with errcode := .outputOverflow, phase := .error, matchPart := none, cursor := c, freeCount := k }) ∧
  (∀ s : State, exec .storedEnd s = .next
    { s with
      phase := if s.bfinal = 1 then .done else .hdrBfinal
      trace := s.trace ++ [.blockEnd { index := s.p, length := 0 }], traceCount := s.traceCount + 1 })

/-- 42_dynamic_trees.md R180, R181, R182: HLIT, HLIT_RESERVED, HDIST, HCLEN. That HCLEN sets NUM to 0 is 10_state.md R31,
which R182 does not repeat (log entry 10). -/
def Obligations.DynamicCountElements : Prop :=
  (∀ (s : State) (v : BitVec 5), s.hasBits 5 → v.toNat < 30 → ∃ c, exec (.hlit v) s = .next
    { s with
      p := s.p + 5, cursor := c, hlit := v.setWidth 9 + 257, phase := .dynHdist
      trace := s.trace ++ [.hlit (v.setWidth 9 + 257) { index := s.p, length := 5 }]
      traceCount := s.traceCount + 1 }) ∧
  (∀ (s : State) (low : BitVec 1), s.hasBits 5 → ∃ c k, exec (.hlitReserved low) s = .next
    { s with errcode := .invalidStream, phase := .error, matchPart := none, cursor := c, freeCount := k }) ∧
  (∀ (s : State) (v : BitVec 5), s.hasBits 5 → ∃ c, exec (.hdist v) s = .next
    { s with
      p := s.p + 5, cursor := c, hdist := v.setWidth 6 + 1, phase := .dynHclen
      trace := s.trace ++ [.hdist (v.setWidth 6 + 1) { index := s.p, length := 5 }]
      traceCount := s.traceCount + 1 }) ∧
  (∀ (s : State) (v : BitVec 4), s.hasBits 4 → ∃ c, exec (.hclen v) s = .next
    { s with
      p := s.p + 4, cursor := c, hclen := v.setWidth 5 + 4, cllen := Vector.replicate 19 0, cli := 0
      num := 0, phase := .dynCllen
      trace := s.trace ++ [.hclen (v.setWidth 5 + 4) { index := s.p, length := 4 }]
      traceCount := s.traceCount + 1 })

/-- 42_dynamic_trees.md R183, R184: CLLEN, before the last 3-bit length and at the last, which builds CLT. -/
def Obligations.CodeLengthAlphabetElement : Prop :=
  ∀ (s : State) (v : BitVec 3), s.hasBits 3 →
    let sym := ([16, 17, 18, 0, 8, 7, 9, 6, 10, 5, 11, 4, 12, 3, 13, 2, 14, 1, 15] : List Nat).getD s.cli.toNat 0
    let cllen := s.cllen.setIfInBounds sym v
    let r : TraceRecord := .codeLength .runLengthTable (BitVec.ofNat 9 sym) (v.setWidth 4) { index := s.p, length := 3 }
    ∃ c clt, s.clt.Written (build (cllen.toList.map BitVec.toNat)) clt ∧ exec (.cllen v) s = .next
      (if s.cli + 1 = s.hclen then
        { s with
          p := s.p + 3, cursor := c, cllen := cllen, cli := s.cli + 1
          clt := clt, num := 0, phase := .dynLens
          trace := s.trace ++ [r], traceCount := s.traceCount + 1 }
      else
        { s with
          p := s.p + 3, cursor := c, cllen := cllen, cli := s.cli + 1
          trace := s.trace ++ [r], traceCount := s.traceCount + 1 })

/-- 42_dynamic_trees.md R185, R186, R192: CL_LEN, with the builds where it sets the last length. What DLT and DDT hold
after builds of more lengths than 10_state.md R33 gives them entries, which no run makes, is left open. -/
def Obligations.CodeLengthElement : Prop :=
  ∀ (s : State) (n : Nat) (len : BitVec 4), s.hasBits n →
    let lens := s.lens.setIfInBounds s.num.toNat len
    let ls := lens.toList.map BitVec.toNat
    let r : TraceRecord := .codeLength (if s.num < s.hlit then .lz77LengthTable else .lz77DistTable) s.num len
      { index := s.p, length := BitVec.ofNat 8 n }
    ∃ c dlt ddt, (s.hlit.toNat ≤ 286 → s.dlt.Written (build (ls.take s.hlit.toNat)) dlt) ∧
      (s.hdist.toNat ≤ 32 → s.ddt.Written (build ((ls.drop s.hlit.toNat).take s.hdist.toNat)) ddt) ∧
      exec (.clLen n len) s = .next
      (if (s.num + 1).toNat = s.hlit.toNat + s.hdist.toNat then
        { s with
          p := s.p + BitVec.ofNat 32 n, cursor := c, lens := lens, num := s.num + 1
          dlt := dlt, ddt := ddt, active := 1, phase := .body
          trace := s.trace ++ [r], traceCount := s.traceCount + 1 }
      else
        { s with
          p := s.p + BitVec.ofNat 32 n, cursor := c, lens := lens, num := s.num + 1
          trace := s.trace ++ [r], traceCount := s.traceCount + 1 })

/-- 42_dynamic_trees.md R187 to R190, R192: CL_REP_PREV, CL_ZERO_SHORT, CL_ZERO_LONG: the repeat fills its entries and
no other, records them, and builds the trees where it sets the last length (as CL_LEN does). -/
def Obligations.RepeatElements : Prop :=
  ∀ (s : State) (i : Instr) (width cnt : Nat) (sym : BitVec 5) (v : BitVec 4),
    ((∃ n rep, i = .clRepPrev n rep ∧ s.num ≠ 0 ∧ width = n + 2 ∧ cnt = rep.toNat + 3 ∧ sym = 16 ∧
        s.lens[s.num.toNat - 1]? = some v) ∨
      (∃ n rep, i = .clZeroShort n rep ∧ width = n + 3 ∧ cnt = rep.toNat + 3 ∧ sym = 17 ∧ v = 0) ∨
      (∃ n rep, i = .clZeroLong n rep ∧ width = n + 7 ∧ cnt = rep.toNat + 11 ∧ sym = 18 ∧ v = 0)) →
    s.hasBits width → s.num.toNat + cnt ≤ s.hlit.toNat + s.hdist.toNat →
    let r : TraceRecord := .repeatCodeLength (if s.num < s.hlit then .lz77LengthTable else .lz77DistTable) sym
      (BitVec.ofNat 8 cnt) v ((List.range cnt).map fun k => s.num + BitVec.ofNat 9 k)
      { index := s.p, length := BitVec.ofNat 8 width }
    ∃ (c : BitCursor) (lens : Vector (BitVec 4) 318) (dlt : DltTable) (ddt : DdtTable),
      (∀ k, k < 318 → lens[k]? = if s.num.toNat ≤ k ∧ k < s.num.toNat + cnt then some v else s.lens[k]?) ∧
      let ls := lens.toList.map BitVec.toNat
      let num := s.num + BitVec.ofNat 9 cnt
      (s.hlit.toNat ≤ 286 → s.dlt.Written (build (ls.take s.hlit.toNat)) dlt) ∧
      (s.hdist.toNat ≤ 32 → s.ddt.Written (build ((ls.drop s.hlit.toNat).take s.hdist.toNat)) ddt) ∧
      exec i s = .next
        (if num.toNat = s.hlit.toNat + s.hdist.toNat then
          { s with
            p := s.p + BitVec.ofNat 32 width, cursor := c, lens := lens, num := num
            dlt := dlt, ddt := ddt, active := 1, phase := .body
            trace := s.trace ++ [r], traceCount := s.traceCount + 1 }
        else
          { s with
            p := s.p + BitVec.ofNat 32 width, cursor := c, lens := lens, num := num
            trace := s.trace ++ [r], traceCount := s.traceCount + 1 })

/-- 42_dynamic_trees.md R187, R190: a repeat past HLIT + HDIST, and symbol 16 with no previous length (before its extra
bits are read), raise InvalidStream and set no length. -/
def Obligations.RepeatFaults : Prop :=
  (∀ (s : State) (i : Instr) (width cnt : Nat),
    ((∃ n rep, i = .clRepPrev n rep ∧ s.num ≠ 0 ∧ width = n + 2 ∧ cnt = rep.toNat + 3) ∨
      (∃ n rep, i = .clZeroShort n rep ∧ width = n + 3 ∧ cnt = rep.toNat + 3) ∨
      (∃ n rep, i = .clZeroLong n rep ∧ width = n + 7 ∧ cnt = rep.toNat + 11)) →
    s.hasBits width → s.hlit.toNat + s.hdist.toNat < s.num.toNat + cnt →
    ∃ c k, exec i s = .next
      { s with errcode := .invalidStream, phase := .error, matchPart := none, cursor := c, freeCount := k }) ∧
  (∀ (s : State) (n : Nat) (rep : BitVec 2), s.num = 0 → s.hasBits n → ∃ c k, exec (.clRepPrev n rep) s = .next
    { s with errcode := .invalidStream, phase := .error, matchPart := none, cursor := c, freeCount := k })

/-- 43_block_body.md R211, R212, R213: LIT, EOB, LITLEN_RESERVED_286, LITLEN_RESERVED_287. -/
def Obligations.LiteralEndAndReservedElements : Prop :=
  (∀ (s : State) (n : Nat) (v : Byte), s.hasBits n → s.outlen ≠ s.runC → ∃ c, exec (.lit n v) s = .next
    { s with
      p := s.p + BitVec.ofNat 32 n, cursor := c, dst := s.dst.write s.outlen.toNat v, outlen := s.outlen + 1
      trace := s.trace ++ [.literal v { index := s.p, length := BitVec.ofNat 8 n }]
      traceCount := s.traceCount + 1 }) ∧
  (∀ (s : State) (n : Nat) (v : Byte), s.hasBits n → s.outlen = s.runC → ∃ c k, exec (.lit n v) s = .next
    { s with errcode := .outputOverflow, phase := .error, matchPart := none, cursor := c, freeCount := k }) ∧
  (∀ (s : State) (n : Nat), s.hasBits n → s.runN.toNat < 2 ^ 29 → ∃ c, exec (.eob n) s = .next
    { s with
      p := s.p + BitVec.ofNat 32 n, cursor := c, phase := if s.bfinal = 1 then .done else .hdrBfinal
      trace := s.trace ++ [.blockEnd
        { index := s.p
          length := BitVec.ofNat 8 (if s.bfinal = 1 then roundup8 (s.p.toNat + n) - s.p.toNat else n) }]
      traceCount := s.traceCount + 1 }) ∧
  (∀ (s : State) (n : Nat) (i : Instr), i = .litlenReserved286 n ∨ i = .litlenReserved287 n → s.hasBits n →
    ∃ c k, exec i s = .next
      { s with errcode := .invalidStream, phase := .error, matchPart := none, cursor := c, freeCount := k })

/-- 43_block_body.md R214: LEN_257 to LEN_285. The length is LBASE + extra; the element writes nothing but P until the
distance part follows. That the length part is kept in a latch until then is the model's choice (log entry 4). -/
def Obligations.LengthElements : Prop :=
  ∀ (s : State) (i : Instr) (sym n lext : Nat), i.asLength = some (sym, n, lext) →
    s.hasBits (n + lbits (sym - 257)) →
    3 ≤ lbase (sym - 257) + lext ∧ lbase (sym - 257) + lext ≤ 258 ∧
    ∃ c, exec i s = .next
      { s with
        p := s.p + BitVec.ofNat 32 (n + lbits (sym - 257)), cursor := c
        matchPart := some
          { start := s.p, sym := BitVec.ofNat 9 sym, extraAt := s.p + BitVec.ofNat 32 n
            extraBits := BitVec.ofNat 8 (lbits (sym - 257))
            length := BitVec.ofNat 9 (lbase (sym - 257) + lext) } }

/-- 43_block_body.md R216, R218, R219, R221: DIST_0 to DIST_29 after a length part, where the distance is within the
output and the length within the capacity. Byte `k` of the copy is the byte `dist` before it, which for `k ≥ dist` is a
byte of this copy. -/
def Obligations.DistanceElements : Prop :=
  ∀ (s : State) (i : Instr) (q : MatchPart) (d n dext : Nat), i.asDistance = some (d, n, dext) →
    s.matchPart = some q → s.hasBits (n + dbits d) → s.dst.wf → dbase d + dext ≤ s.outlen.toNat →
    s.outlen.toNat + q.length.toNat ≤ s.runC.toNat →
    let dist := dbase d + dext
    ∃ (c : BitCursor) (m : Memory) (bytes : List Byte),
      bytes.length = q.length.toNat ∧
      (∀ k, k < q.length.toNat → bytes[k]? = if k < dist then some (s.dst.read (s.outlen.toNat - dist + k))
        else bytes[k - dist]?) ∧
      m.wf ∧
      (∀ a, m.read a = if s.outlen.toNat ≤ a ∧ a < s.outlen.toNat + q.length.toNat
        then bytes.getD (a - s.outlen.toNat) 0 else s.dst.read a) ∧
      exec i s = .next
        { s with
          p := s.p + BitVec.ofNat 32 (n + dbits d), cursor := c, dst := m
          outlen := s.outlen + q.length.setWidth 32, matchPart := none
          trace := s.trace ++ [.lz77 q.length q.sym { index := q.extraAt, length := q.extraBits }
            (BitVec.ofNat 16 dist) (BitVec.ofNat 5 d)
            { index := s.p + BitVec.ofNat 32 n, length := BitVec.ofNat 8 (dbits d) }
            { index := q.start, length := (s.p + BitVec.ofNat 32 (n + dbits d) - q.start).setWidth 8 } bytes]
          traceCount := s.traceCount + 1 }

/-- 43_block_body.md R220; 60_exceptions.md R336: a copy that would pass C writes the bytes that fit and then raises
OutputOverflow at the start of the back-reference, with no record. -/
def Obligations.DistanceOverflowKeepsTheBytesThatFit : Prop :=
  ∀ (s : State) (i : Instr) (q : MatchPart) (d n dext : Nat), i.asDistance = some (d, n, dext) →
    s.matchPart = some q → s.hasBits (n + dbits d) → s.dst.wf → dbase d + dext ≤ s.outlen.toNat →
    s.outlen.toNat ≤ s.runC.toNat → s.runC.toNat < s.outlen.toNat + q.length.toNat →
    let dist := dbase d + dext
    ∃ (c : BitCursor) (k : Nat) (m : Memory) (bytes : List Byte),
      bytes.length = s.runC.toNat - s.outlen.toNat ∧
      (∀ j, j < bytes.length → bytes[j]? = if j < dist then some (s.dst.read (s.outlen.toNat - dist + j))
        else bytes[j - dist]?) ∧
      m.wf ∧
      (∀ a, m.read a = if s.outlen.toNat ≤ a ∧ a < s.runC.toNat
        then bytes.getD (a - s.outlen.toNat) 0 else s.dst.read a) ∧
      exec i s = .next
        { s with
          errcode := .outputOverflow, p := q.start, phase := .error, matchPart := none, cursor := c, freeCount := k
          dst := m, outlen := s.runC }

/-- 43_block_body.md R216, R218: a distance beyond the output raises InvalidDistance, and the reserved symbols 30 and 31
raise InvalidStream, each at the start of the back-reference and with nothing written. -/
def Obligations.DistanceFaults : Prop :=
  (∀ (s : State) (i : Instr) (q : MatchPart) (d n dext : Nat), i.asDistance = some (d, n, dext) →
    s.matchPart = some q → s.hasBits (n + dbits d) → s.outlen.toNat < dbase d + dext →
    ∃ c k, exec i s = .next
      { s with
        errcode := .invalidDistance, p := q.start, phase := .error, matchPart := none, cursor := c, freeCount := k }) ∧
  (∀ (s : State) (i : Instr) (q : MatchPart) (n : Nat), i = .distReserved30 n ∨ i = .distReserved31 n →
    s.matchPart = some q → s.hasBits n →
    ∃ c k, exec i s = .next
      { s with
        errcode := .invalidStream, p := q.start, phase := .error, matchPart := none, cursor := c, freeCount := k })

/-- The model's choice (log entry 12): a distance part that follows no length part has no meaning. A DSYM stands only
inside an LLSYM element (30_encoding.md R82). -/
def Obligations.DistanceNeedsALengthPart : Prop :=
  ∀ (s : State) (i : Instr), i.format = .dsym → s.matchPart = none → exec i s = .refused .noLengthPart

/-- 40_bitcursor.md R127; 60_exceptions.md R335, R336: an element whose bits are not all there raises TruncatedStream at
its start and does nothing else; in a back-reference the start is that of its length code. -/
def Obligations.TruncatedElementRaises : Prop :=
  ∀ (s : State) (i : Instr), s.p.toNat ≤ 8 * s.runN.toNat → s.runN.toNat < 2 ^ 29 →
    ¬ s.hasBits (i.width (s.p.toNat % 8)) →
    (∀ n rep, i = .clRepPrev n rep → s.num ≠ 0) → (i.format = .dsym → s.matchPart ≠ none) →
    ∃ c k, exec i s = .next
      { s with
        errcode := .truncatedStream, p := s.startFor i.format, phase := .error, matchPart := none, cursor := c
        freeCount := k }

/-! ## What every instruction leaves alone -/

/-- 10_state.md R20, R23, R25 to R33, 20_memory.md R61: each register, table and memory is written only by the elements
its rule names, and no element writes SRC or what belongs to the host. That NUM is written by HCLEN (R31) and by the last
CLLEN (42_dynamic_trees.md R183) is how the model reads two rules that differ: its choice (log entry 10). -/
def Obligations.RegistersAreWrittenOnlyByTheirElements : Prop :=
  ∀ (s t : State) (i : Instr), exec i s = .next t →
    (i.format ≠ .f1 → t.bfinal = s.bfinal) ∧
    (i.format ≠ .f2 → t.btype = s.btype) ∧
    (i.format ≠ .f2 → i.format ≠ .clsym → t.active = s.active) ∧
    (i.format ≠ .f5h → t.hlit = s.hlit) ∧
    (i.format ≠ .f5d → t.hdist = s.hdist) ∧
    (i.format ≠ .f4 → t.hclen = s.hclen) ∧
    (i.format ≠ .f4 → i.format ≠ .f3 → t.cli = s.cli ∧ t.cllen = s.cllen) ∧
    (i.format ≠ .f3 → t.clt = s.clt) ∧
    (i.format ≠ .f4 → i.format ≠ .f3 → i.format ≠ .clsym → t.num = s.num) ∧
    (i.format ≠ .clsym → t.lens = s.lens ∧ t.dlt = s.dlt ∧ t.ddt = s.ddt) ∧
    (i.format ≠ .sh32 → i.format ≠ .b8 → t.storedRem = s.storedRem) ∧
    (i.format ≠ .b8 → i.format ≠ .llsym → i.format ≠ .dsym → t.dst = s.dst ∧ t.outlen = s.outlen) ∧
    (t.phase ≠ .error → t.errcode = s.errcode ∧ t.freeCount = s.freeCount) ∧
    t.src = s.src ∧ t.runN = s.runN ∧ t.runC = s.runC ∧ t.srcLen = s.srcLen ∧ t.dstCap = s.dstCap ∧
    t.traceReady = s.traceReady ∧ t.readData = s.readData ∧ t.host = s.host

/-- 20_memory.md R63; 10_state.md R23: the bytes an element writes are exactly DST[OUTLEN before .. OUTLEN after), and
OUTLEN never goes down and never passes C. -/
def Obligations.DstIsWrittenOnlyAtOutlen : Prop :=
  ∀ (s t : State) (i : Instr), s.outlen.toNat ≤ s.runC.toNat → s.dst.wf → exec i s = .next t →
    s.outlen.toNat ≤ t.outlen.toNat ∧ t.outlen.toNat ≤ t.runC.toNat ∧
    ∀ a, a < s.outlen.toNat ∨ t.outlen.toNat ≤ a → t.dst.read a = s.dst.read a

/-- 60_exceptions.md R335, R336, R337: an element that ends in ERROR has had no effect besides the code, P at the element
start, and PHASE, but for the bytes of a back-reference that OutputOverflow stopped. -/
def Obligations.FaultsArePrecise : Prop :=
  ∀ (s t : State) (i : Instr), s.phase ≠ .error → exec i s = .next t → t.phase = .error →
    t = { s with
      errcode := t.errcode, p := s.startFor i.format, phase := .error, matchPart := none, cursor := t.cursor
      freeCount := t.freeCount, dst := t.dst, outlen := t.outlen } ∧
    t.errcode ≠ .none ∧ t.errcode ≠ .notGzip ∧
    (t.errcode ≠ .outputOverflow ∨ i.format ≠ .dsym → t.dst = s.dst ∧ t.outlen = s.outlen)

/-! ## Invariants of every step -/

/-- Every step, the host's acts among them, keeps the invariant: both memories canonical, `P ≤ 8·N`, `OUTLEN ≤ C`, a
legal BTYPE, no half-done back-reference, and the registers of each phase in their ranges. -/
def Obligations.StepKeepsTheEngineInvariant : Prop :=
  ∀ s t : State, s.Inv → step s = .next t → t.Inv

/-- The invariant holds after reset. -/
def Obligations.ResetMeetsTheEngineInvariant : Prop := State.reset.Inv

/-- The engine on its own never stops: under the invariant every step answers a next state, so that no run meets a fault
or a refusal of the model (41_huffman.md R158, 30_encoding.md R90). -/
def Obligations.EngineStepAlwaysCompletes : Prop :=
  ∀ s : State, s.Inv → s.host = [] → ∃ t, step s = .next t

/-- 46_host_interface.md R304: SRC_LEN and DST_CAP, and N and C, never leave their legal ranges. -/
def Obligations.LengthRegistersStayLegal : Prop :=
  (∀ s t : State, step s = .next t →
    (s.srcLen.toNat ≤ Config.srcMaxBytes ∧ s.dstCap.toNat ≤ Config.dstCapMax ∧
      s.runN.toNat ≤ Config.srcMaxBytes ∧ s.runC.toNat ≤ Config.dstCapMax) →
    t.srcLen.toNat ≤ Config.srcMaxBytes ∧ t.dstCap.toNat ≤ Config.dstCapMax ∧
      t.runN.toNat ≤ Config.srcMaxBytes ∧ t.runC.toNat ≤ Config.dstCapMax) ∧
  1 ≤ Config.srcMaxBytes ∧ Config.srcMaxBytes ≤ 2 ^ 29 - 1 ∧ Config.dstCapMax ≤ 2 ^ 32 - 1

/-- 10_state.md R38, 45_trace.md R270: TRACE_COUNT is the number of records. -/
def Obligations.TraceCountIsTheLength : Prop :=
  ∀ s t : State, step s = .next t → s.traceCount = BitVec.ofNat 32 s.trace.length →
    t.traceCount = BitVec.ofNat 32 t.trace.length

/-- 45_trace.md R278, R280, R281, R282: the spans of the trace tile the consumed bits, after every step: up to P, up to
ERR_POS after a fault, and up to the byte boundary at DONE. -/
def Obligations.TraceTilesTheConsumedBits : Prop :=
  ∀ s t : State, s.Inv → s.Tiled → step s = .next t → t.Tiled

/-- 45_trace.md R283: the text of the trace is the output, after every engine step. -/
def Obligations.TraceTextIsTheOutput : Prop :=
  ∀ s t : State, s.Inv → s.host = [] → s.TextOk → step s = .next t → t.TextOk

/-- 10_state.md R40, 40_bitcursor.md R131: the buffered reader agrees with P after every step of a run. -/
def Obligations.ReaderStaysCoherent : Prop :=
  ∀ s t : State, s.Inv → s.CursorOk → step s = .next t → t.CursorOk

/-- 45_trace.md R279: the record a step emits has a span of a length its kind allows. -/
def Obligations.RecordSpansHaveTheirLengths : Prop :=
  ∀ (s t : State) (r : TraceRecord), s.Inv → s.host = [] → step s = .next t → t.trace = s.trace ++ [r] → r.LengthOk

/-- 70_reset_and_hazards.md R369: a run with N source bytes ends, in DONE or ERROR, after at most 8·N + N/4 + 1 steps. -/
def Obligations.RunEndsWithinTheBound : Prop :=
  ∀ s : State, s.Inv → s.Undisturbed → s.phase = .hdrBfinal → s.p = 0 →
    ∃ t, Host.Core.run Sys2Proof.core (8 * s.runN.toNat + s.runN.toNat / 4 + 1) s = .next t ∧
      (t.phase = .done ∨ t.phase = .error)

/-- 20_memory.md R64: what DST held at OUTLEN and beyond is not observable: two engines that differ there alone take the
same step, and differ there alone after it. -/
def Obligations.OldDstIsNotObservable : Prop :=
  ∀ (s t : State) (m : Memory), s.Inv → s.host = [] → m.wf → (∀ a, a < s.outlen.toNat → m.read a = s.dst.read a) →
    step s = .next t →
    ∃ m', step { s with dst := m } = .next { t with dst := m' } ∧
      ∀ a, a < t.outlen.toNat → m'.read a = t.dst.read a

/-- 40_bitcursor.md R121, 44_block_machine.md R250, R251, 30_encoding.md R91: what a step that raises nothing does depends
on the stream bits it consumes alone, and not on the pad of a stored header: with any other source that agrees on those,
it does the same (but for the bits the reader has buffered). -/
def Obligations.StepDependsOnItsBitsAlone : Prop :=
  ∀ (s t : State) (m : Memory), s.Inv → s.Undisturbed → step s = .next t → t.phase ≠ .error →
    (∀ a, s.p.toNat ≤ a → a < t.p.toNat → ¬ (s.phase = .storedHdr ∧ a < s.p.toNat + padOf s.p.toNat) →
      streamBit m a = streamBit s.src a) →
    ∃ c, step { s with src := m } = .next { t with src := m, cursor := c }

/-! ## The host -/

/-- 46_host_interface.md R303: writing CTRL with bit 0 = 1 starts a run unless BUSY; any other write to CTRL does
nothing. -/
def Obligations.StartBeginsARun : Prop :=
  ∀ (s : State) (v : Word) (rest : List HostAct), s.host = .regWrite Config.csrBase 4 v :: rest →
    step s = .next
      (if v.getLsbD 0 = true ∧ s.busy = false then
        { s with
          host := rest, p := 0, cursor := { srcIdx := 0, bitBuf := 0, bitCnt := 0 }, outlen := 0
          bfinal := 0, btype := 0, active := 0, errcode := .none, trace := [], traceCount := 0
          phase := .hdrBfinal, runN := s.srcLen, runC := s.dstCap }
      else { s with host := rest })

/-- A run starts with an empty trace that tiles nothing, an empty text and a reader that agrees with P, which the
invariants above then keep. -/
def Obligations.StartMeetsTheRunInvariants : Prop :=
  ∀ s : State, s.Inv → s.start.Inv ∧ s.start.Tiled ∧ s.start.TextOk ∧ s.start.CursorOk

/-- 46_host_interface.md R301, R304: writes to SRC_LEN and DST_CAP, and to the registers a host cannot write. The last
clause takes every aligned offset modulo 2^32. That an address below CSR_BASE, which is such an offset by wrap, counts as
an undecoded one, so that a write there is ignored, is the model's choice (DESIGN CHOICE, log entry 31). -/
def Obligations.RegisterWrites : Prop :=
  (∀ (s : State) (v : Word) (rest : List HostAct), s.host = .regWrite (Config.csrBase + 0x0C) 4 v :: rest →
    step s = .next (if s.busy = true ∨ Config.srcMaxBytes < v.toNat then { s with host := rest }
      else { s with host := rest, srcLen := v })) ∧
  (∀ (s : State) (v : Word) (rest : List HostAct), s.host = .regWrite (Config.csrBase + 0x10) 4 v :: rest →
    step s = .next (if s.busy = true ∨ Config.dstCapMax < v.toNat then { s with host := rest }
      else { s with host := rest, dstCap := v })) ∧
  (∀ (s : State) (v offset : Word) (rest : List HostAct), offset.toNat % 4 = 0 →
    offset.toNat = 0x04 ∨ offset.toNat = 0x08 ∨ 0x14 ≤ offset.toNat →
    s.host = .regWrite (Config.csrBase + offset) 4 v :: rest → step s = .next { s with host := rest })

/-- 46_host_interface.md R301, R302, R305: what each register reads as, with no effect on the engine. The offset is taken
modulo 2^32. That an address below CSR_BASE, which is such an offset by wrap, counts as an undecoded one, so that it reads
0, is the model's choice (DESIGN CHOICE, log entry 31). -/
def Obligations.RegisterReads : Prop :=
  ∀ (s : State) (offset : Word) (rest : List HostAct), offset.toNat % 4 = 0 →
    s.host = .regRead (Config.csrBase + offset) 4 :: rest →
    step s = .next
      { s with
        host := rest
        readData :=
          if offset = 0x04 then
            (s.phase.statusState.setWidth 32 ||| (s.bfinal.setWidth 32 <<< 2)) ||| (s.active.setWidth 32 <<< 3)
          else if offset = 0x08 then s.errcode.code.setWidth 32
          else if offset = 0x0C then s.srcLen
          else if offset = 0x10 then s.dstCap
          else if offset = 0x14 then s.outlen
          else if offset = 0x18 then s.p
          else if offset = 0x1C then s.traceCount
          else if offset = 0x20 then s.phase.code.setWidth 32
          else if offset = 0x24 then BitVec.ofNat 32 ((s.p.toNat + 7) / 8)
          else 0 }

/-- 46_host_interface.md R305, as 93_implementation_defined.md U6 treats it (log entry 14): a register access of another
width or at an unaligned offset is refused if it writes, and changes nothing but what the host reads if it reads. That
the offset of an address below CSR_BASE is the one modulo 2^32 is the model's choice (log entry 31). -/
def Obligations.OddRegisterAccesses : Prop :=
  ∀ (s : State) (addr v : Word) (bytes : Nat) (rest : List HostAct),
    bytes ≠ 4 ∨ (addr - Config.csrBase).toNat % 4 ≠ 0 →
    (s.host = .regWrite addr bytes v :: rest → step s = .refused .registerAccessShape) ∧
    (s.host = .regRead addr bytes :: rest →
      ∃ w k, step s = .next { s with host := rest, readData := w, freeCount := k })

/-- 20_memory.md R70, R74, 46_host_interface.md R310: the host places and reads bytes of SRC and DST between runs, by index
or by an address in the buffer's window. While BUSY every such access is refused (93_implementation_defined.md U5, log
entry 13); an index no buffer has faults (log entry 15); and an address in no window changes nothing, BUSY or not (log
entry 30). The last three are the model's choices, and so is the offset in a window modulo 2^32 (log entry 31). -/
def Obligations.HostBufferAccesses : Prop :=
  (∀ (s : State) (i : Nat) (v : Byte) (rest : List HostAct),
    (s.host = .srcWrite (.index i) v :: rest → step s =
      if s.busy = true then .refused .hostAccessWhileBusy
      else if i < Config.srcMaxBytes then .next { s with host := rest, src := s.src.write i v }
      else .fault .noSuchByte) ∧
    (s.host = .srcRead (.index i) :: rest → step s =
      if s.busy = true then .refused .hostAccessWhileBusy
      else if i < Config.srcMaxBytes then .next { s with host := rest, readData := (s.src.read i).setWidth 32 }
      else .fault .noSuchByte) ∧
    (s.host = .dstWrite (.index i) v :: rest → step s =
      if s.busy = true then .refused .hostAccessWhileBusy
      else if i < Config.dstCapMax then .next { s with host := rest, dst := s.dst.write i v }
      else .fault .noSuchByte) ∧
    (s.host = .dstRead (.index i) :: rest → step s =
      if s.busy = true then .refused .hostAccessWhileBusy
      else if i < Config.dstCapMax then .next { s with host := rest, readData := (s.dst.read i).setWidth 32 }
      else .fault .noSuchByte)) ∧
  (∀ (s : State) (a : Word) (v : Byte) (rest : List HostAct),
    let within := fun (window : Option Word) (size : Nat) (k : Nat → State) =>
      match window with
      | none => Host.Outcome.next { s with host := rest }
      | some w =>
        if (a - w).toNat < size then
          if s.busy = true then .refused .hostAccessWhileBusy else .next (k (a - w).toNat)
        else .next { s with host := rest }
    (s.host = .srcWrite (.address a) v :: rest → step s =
      within Config.srcWindow Config.srcMaxBytes fun i => { s with host := rest, src := s.src.write i v }) ∧
    (s.host = .srcRead (.address a) :: rest → step s =
      within Config.srcWindow Config.srcMaxBytes fun i =>
        { s with host := rest, readData := (s.src.read i).setWidth 32 }) ∧
    (s.host = .dstWrite (.address a) v :: rest → step s =
      within Config.dstWindow Config.dstCapMax fun i => { s with host := rest, dst := s.dst.write i v }) ∧
    (s.host = .dstRead (.address a) :: rest → step s =
      within Config.dstWindow Config.dstCapMax fun i =>
        { s with host := rest, readData := (s.dst.read i).setWidth 32 }))

/-- 70_reset_and_hazards.md R360: the reset input, in any phase: every register that 10_state.md R43 gives a reset value
holds it, and SRC and DST are untouched. CLLEN, LENS and the dynamic trees, which R360 calls unspecified, and the latches
of N and C are left open (log entries 2, 3). That the fields of the outside keep their values, and that the reset drops a
half-done back-reference, is the model's choice (log entries 4, 26), and so is that reset is asserted and released in one
act (log entry 32). -/
def Obligations.ResetInputAbandonsTheRun : Prop :=
  ∀ (s : State) (rest : List HostAct), s.host = .reset :: rest →
    ∃ (cllen : Vector (BitVec 3) 19) (lens : Vector (BitVec 4) 318) (clt : CltTable) (dlt : DltTable) (ddt : DdtTable)
      (runN runC : Word), step s = .next
        { s with
          host := rest, p := 0, outlen := 0, phase := .idle, bfinal := 0, btype := 0, active := 0
          hlit := 0, hdist := 0, hclen := 0, cli := 0, num := 0, storedRem := 0, errcode := .none
          trace := [], traceCount := 0, cursor := { srcIdx := 0, bitBuf := 0, bitCnt := 0 }
          srcLen := 0, dstCap := 0, matchPart := none
          cllen := cllen, lens := lens, clt := clt, dlt := dlt, ddt := ddt, runN := runN, runC := runC }

/-- 45_trace.md R286: while the consumer on the trace port accepts nothing, no record is added, and a step that would add
one changes nothing; a step that raises an error still does (log entry 6). The consumer's readiness is the act
`traceReady`, which sets it and nothing else; and the act `engine` lets the engine take the step it takes with nothing to
do for the host (log entry 5). -/
def Obligations.TracePortHoldsTheEngine : Prop :=
  (∀ s t u : State, s.host = [] → s.traceReady = false → step s = .next t →
    step { s with traceReady := true } = .next u →
    t = if u.trace.length = s.trace.length then { u with traceReady := false } else s) ∧
  (∀ (s : State) (b : Bool) (rest : List HostAct), s.host = .traceReady b :: rest →
    step s = .next { s with host := rest, traceReady := b }) ∧
  (∀ (s : State) (rest : List HostAct), s.host = .engine :: rest → step s = engineStep { s with host := rest }) ∧
  (∀ (s t : State) (rest : List HostAct), s.host = .engine :: rest → step { s with host := [] } = .next t →
    step s = .next { t with host := rest })
end

