-- ==== Sys2Proof/Laws/Huffman.lean ====
section
/-! SUPPORT. What the decode loop and the build can do, said once each. -/

namespace Sys2Proof.Machine

/-- Where the decode loop ends with a symbol, the symbol is listed, the code is the bits it consumed, and what follows
them does not matter. -/
theorem decodeLoop_ok (t : Tree) (fuel : Nat) : ∀ (len sum : Nat) (cur : Int) (bits : List Bool) (sym n : Nat)
    (rest : List Bool), decodeLoop t fuel len sum cur bits = .ok (sym, n, rest) →
    len < n ∧ n ≤ len + fuel ∧ (∃ x ∈ t.symbols, x.toNat = sym) ∧
      ∃ code, bits = code ++ rest ∧ code.length = n - len ∧
        ∀ rest', decodeLoop t fuel len sum cur (code ++ rest') = .ok (sym, n, rest') := by
  induction fuel with
  | zero => intro len sum cur bits sym n rest h; simp [decodeLoop] at h
  | succ fuel ih =>
    intro len sum cur bits sym n rest h
    cases bits with
    | nil => simp [decodeLoop] at h
    | cons b bits =>
      simp only [decodeLoop] at h
      split at h
      · rename_i hneg
        split at h
        · rename_i x hx
          simp only [Except.ok.injEq, Prod.mk.injEq] at h
          obtain ⟨rfl, rfl, rfl⟩ := h
          refine ⟨by omega, by omega, ⟨x, List.mem_of_getElem? hx, rfl⟩, [b], rfl, by simp, fun rest' => ?_⟩
          simp only [List.cons_append, List.nil_append, decodeLoop]
          rw [if_pos hneg, hx]
        · simp at h
      · rename_i hpos
        obtain ⟨h1, h2, h3, code, rfl, h5, h6⟩ := ih _ _ _ _ _ _ _ h
        refine ⟨by omega, by omega, h3, b :: code, rfl, by simp; omega, fun rest' => ?_⟩
        simp only [List.cons_append, decodeLoop]
        rw [if_neg hpos]
        exact h6 rest'

/-- What a decoded symbol is: a listed symbol, with a code of 1 to 15 bits, whatever follows it. -/
theorem decodeSymbol_ok {t : Tree} {bits : List Bool} {sym n : Nat} {rest : List Bool}
    (h : decodeSymbol t bits = .ok (sym, n, rest)) :
    1 ≤ n ∧ n ≤ 15 ∧ (∃ x ∈ t.symbols, x.toNat = sym) ∧
      ∃ code, bits = code ++ rest ∧ code.length = n ∧
        ∀ rest', decodeSymbol t (code ++ rest') = .ok (sym, n, rest') := by
  obtain ⟨h1, h2, h3, code, h4, h5, h6⟩ := decodeLoop_ok t _ _ _ _ _ _ _ _ h
  refine ⟨h1, ?_, h3, code, h4, by simpa using h5, h6⟩
  simpa [Config.maxCodeBits] using h2

/-- The number of symbols with codes of 1 to `len` bits. -/
def Tree.upTo (t : Tree) : Nat → Nat
  | 0 => 0
  | len + 1 => t.upTo len + t.count (len + 1)

theorem Tree.upTo_le (t : Tree) {a b : Nat} (h : a ≤ b) : t.upTo a ≤ t.upTo b := by
  induction h with
  | refl => exact Nat.le_refl _
  | step _ ih => exact Nat.le_trans ih (by simp [Tree.upTo])

theorem Tree.sum_counts (t : Tree) (h : t.count 0 = 0) : ((List.range 16).map t.count).sum = t.upTo 15 := by
  simp [List.range_succ, Tree.upTo, h]
  omega

/-- The loop stays within the table (41_huffman.md R158): with `sum` the symbols of shorter codes and `cur ≥ 0`, it
never ends at an entry a table of `T` symbols does not hold. -/
theorem decodeLoop_entry (t : Tree) (ht : t.upTo 15 = t.symbols.length) (fuel : Nat) :
    ∀ (len sum : Nat) (cur : Int) (bits : List Bool), len + fuel ≤ 15 → sum = t.upTo len → 0 ≤ cur →
      decodeLoop t fuel len sum cur bits ≠ .error .noTableEntry := by
  induction fuel with
  | zero => intro len sum cur bits _ _ _; simp [decodeLoop]
  | succ fuel ih =>
    intro len sum cur bits hf hs hc
    cases bits with
    | nil => simp [decodeLoop]
    | cons b bits =>
      simp only [decodeLoop]
      have hle : t.upTo (len + 1) ≤ t.upTo 15 := t.upTo_le (by omega)
      have hup : t.upTo (len + 1) = sum + t.count (len + 1) := by rw [hs]; rfl
      split
      · rename_i hneg
        have hlt : ((↑(sum + t.count (len + 1)) : Int) +
            (2 * cur + (b.toNat : Int) - (t.count (len + 1) : Int))).toNat < t.symbols.length := by omega
        rw [List.getElem?_eq_getElem hlt]
        simp
      · exact ih _ _ _ _ (by omega) hup.symm (by omega)

theorem decodeSymbol_entry {t : Tree} {bound : Nat} (ht : t.Legal bound) (bits : List Bool) :
    decodeSymbol t bits ≠ .error .noTableEntry := by
  refine decodeLoop_entry t ?_ _ _ _ _ _ (by simp [Config.maxCodeBits]) rfl (by omega)
  rw [← t.sum_counts ht.1, ht.2.1]

/-- The decode loop gives no error but its own three. -/
theorem decodeLoop_noPrevious (t : Tree) (fuel : Nat) : ∀ (len sum : Nat) (cur : Int) (bits : List Bool),
    decodeLoop t fuel len sum cur bits ≠ .error .noPreviousLength := by
  induction fuel with
  | zero => intro len sum cur bits; simp [decodeLoop]
  | succ fuel ih =>
    intro len sum cur bits
    cases bits with
    | nil => simp [decodeLoop]
    | cons b bits =>
      simp only [decodeLoop]
      split
      · split <;> simp
      · exact ih _ _ _ _

theorem length_symbolsOfLength_le (lengths : List Nat) (l : Nat) :
    (symbolsOfLength lengths l).length ≤ lengths.length := by
  have h := List.length_filter_le (fun i => decide (lengths.getD i 0 = l)) (List.range lengths.length)
  rwa [List.length_range] at h

theorem mem_symbolsOfLength {lengths : List Nat} {l i : Nat} :
    i ∈ symbolsOfLength lengths l ↔ i < lengths.length ∧ lengths.getD i 0 = l := by
  simp [symbolsOfLength]

/-- The counts of a built tree (41_huffman.md R151). -/
theorem build_count (lengths : List Nat) (h : lengths.length < 512) (l : Nat) :
    (build lengths).count l = if l = 0 ∨ 16 ≤ l then 0 else (symbolsOfLength lengths l).length := by
  have hle := length_symbolsOfLength_le lengths l
  by_cases hl : l < 16
  · by_cases h0 : l = 0
    · subst h0; simp [Tree.count, build]
    · simp [Tree.count, build, hl, h0, show ¬ 16 ≤ l by omega]
      omega
  · simp [Tree.count, build, hl, show 16 ≤ l by omega]

/-- The symbols of a built tree are as many as its lengths of 1 to 15 bits. -/
theorem build_symbols_length (lengths : List Nat) :
    (build lengths).symbols.length = ((List.range' 1 15).map fun l => (symbolsOfLength lengths l).length).sum := by
  simp only [build, List.length_map, List.length_flatMap]

/-- A built tree is a legal table for the alphabet it was built for (41_huffman.md R150, R151). -/
theorem build_legal (lengths : List Nat) (bound : Nat) (h : lengths.length ≤ bound) (hb : bound ≤ 320) :
    (build lengths).Legal bound := by
  refine ⟨?_, ?_, fun x hx => ?_⟩
  · simp [build_count lengths (by omega)]
  · rw [build_symbols_length]
    have h16 : List.range 16 = 0 :: List.range' 1 15 := by decide
    rw [h16, List.map_cons, List.sum_cons, build_count lengths (by omega)]
    simp only [true_or, if_true, Nat.zero_add]
    congr 1
    refine List.map_congr_left fun l hl => ?_
    rw [build_count lengths (by omega), if_neg]
    simp only [List.mem_range'_1] at hl
    omega
  · simp only [build, List.mem_map, List.mem_flatMap] at hx
    obtain ⟨i, ⟨l, _, hi⟩, rfl⟩ := hx
    have := (mem_symbolsOfLength.mp hi).1
    simp only [BitVec.toNat_ofNat]
    omega

/-! ## The table memories -/

variable {cw sw size : Nat}

/-- A value that fits in `v` bits survives them. -/
theorem setWidth_setWidth_of_lt {w v : Nat} {x : BitVec w} (h : x.toNat < 2 ^ v) :
    (x.setWidth v).setWidth w = x := by
  apply BitVec.eq_of_toNat_eq
  simp only [BitVec.toNat_setWidth, Nat.mod_eq_of_lt h, Nat.mod_eq_of_lt x.isLt]

/-- The counts a table memory holds after a write. -/
theorem TreeTable.store_total (m : TreeTable cw sw size) (t : Tree) (hc : ∀ l, l < 16 → t.count l < 2 ^ cw) :
    (m.store t).total = ((List.range 16).map t.count).sum := by
  unfold TreeTable.total
  congr 1
  apply List.ext_getElem
  · simp
  · intro l h1 h2
    have hl : l < 16 := by simpa using h2
    have := hc l hl
    simp only [Tree.count, Vector.getElem?_eq_getElem hl, Option.getD_some] at this
    simp [TreeTable.store, Tree.count, hl, Nat.mod_eq_of_lt this]

/-- A table memory holds the tree that was written to it, where the tree fits (10_state.md R33). -/
theorem TreeTable.store_tree (m : TreeTable cw sw size) (t : Tree) (hl : t.symbols.length ≤ size)
    (hT : t.symbols.length = ((List.range 16).map t.count).sum) (hc : ∀ l, l < 16 → t.count l < 2 ^ cw)
    (hs : ∀ x ∈ t.symbols, x.toNat < 2 ^ sw) : (m.store t).tree = t := by
  have ht := m.store_total t hc
  unfold TreeTable.tree
  rw [ht, ← hT]
  cases t with
  | mk counts symbols =>
    simp only [TreeTable.store, writeEntries, Tree.mk.injEq]
    constructor
    · apply Vector.ext
      intro l hl'
      have := hc l hl'
      simp only [Tree.count, Vector.getElem?_eq_getElem hl', Option.getD_some] at this
      simp [setWidth_setWidth_of_lt this]
    · simp only [Vector.toList_mk, List.take_take, Nat.min_eq_left hl]
      rw [List.take_append_of_le_length (by simp), List.take_of_length_le (by simp), List.map_map]
      conv => rhs; rw [← List.map_id symbols]
      exact List.map_congr_left fun x hx => setWidth_setWidth_of_lt (hs x hx)

/-- Writing a tree leaves the entries past its symbols alone (41_huffman.md R153). -/
theorem TreeTable.store_entry (m : TreeTable cw sw size) (t : Tree) (j : Nat) (hj : t.symbols.length ≤ j) :
    (m.store t).symbols[j]? = m.symbols[j]? := by
  by_cases h : j < size
  · rw [Vector.getElem?_eq_getElem h, Vector.getElem?_eq_getElem h]
    simp [TreeTable.store, writeEntries, hj]
  · simp [h]

/-- Counting values that are all different counts each entry at most once. -/
theorem sum_count_le (ls : List Nat) (h : ls.Nodup) (ys : List Nat) : (ls.map ys.count).sum ≤ ys.length := by
  induction ys with
  | nil =>
    have : ∀ ms : List Nat, (ms.map (List.count · [])).sum = 0 := fun ms => by induction ms <;> simp_all
    exact Nat.le_of_eq (this ls)
  | cons y ys ih =>
    have h1 : ∀ ms : List Nat, (ms.map (y :: ys).count).sum = ms.count y + (ms.map ys.count).sum := fun ms => by
      induction ms with
      | nil => rfl
      | cons m ms ihm =>
        rw [List.map_cons, List.sum_cons, ihm, List.map_cons, List.sum_cons, List.count_cons, List.count_cons]
        simp only [beq_iff_eq, eq_comm (a := y)]
        omega
    have := List.nodup_iff_count.mp h y
    rw [h1, List.length_cons]
    omega

/-- The symbols of a length are as many as its entries in the length array (41_huffman.md R151). -/
theorem length_symbolsOfLength (lengths : List Nat) (l : Nat) :
    (symbolsOfLength lengths l).length = lengths.count l := by
  have hm : (List.range lengths.length).map (fun i => lengths.getD i 0) = lengths :=
    List.ext_getElem (by simp) fun i h _ => by simp at h; simp [h]
  conv => rhs; rw [← hm]
  simp only [symbolsOfLength, ← List.countP_eq_length_filter, List.count, List.countP_map]
  congr 1

/-- A table memory holds the tree that a build writes to it, where the build is of no more lengths than it has
entries. -/
theorem TreeTable.store_build (m : TreeTable cw sw size) (lengths : List Nat) (h : lengths.length ≤ size)
    (hb : size ≤ 320) (hc : size < 2 ^ cw) (hs : size ≤ 2 ^ sw) : (m.store (build lengths)).tree = build lengths := by
  obtain ⟨_, hT, hx⟩ := build_legal lengths size h hb
  have hle : (build lengths).symbols.length ≤ size := by
    rw [build_symbols_length, List.map_congr_left fun l _ => length_symbolsOfLength lengths l]
    exact Nat.le_trans (sum_count_le _ (by decide) _) h
  refine m.store_tree _ hle hT (fun l hl => ?_) fun x hx' => Nat.lt_of_lt_of_le (hx x hx') hs
  rw [build_count lengths (by omega)]
  have := length_symbolsOfLength_le lengths l
  split <;> omega

/-- A build is written as its rule says, where it is of no more lengths than the memory has entries. -/
theorem TreeTable.store_written (m : TreeTable cw sw size) (lengths : List Nat) (h : lengths.length ≤ size)
    (hb : size ≤ 320) (hc : size < 2 ^ cw) (hs : size ≤ 2 ^ sw) :
    m.Written (build lengths) (m.store (build lengths)) :=
  ⟨m.store_build lengths h hb hc hs, m.store_entry _⟩

end Sys2Proof.Machine
end

