-- ==== Sys2Proof/Laws/Decode.lean ====
section
/-! SUPPORT. Fields and their bits, and what a successful decode says of the element: its format, that it is well formed,
and which bits it took. -/

namespace Sys2Proof

open Sys2Proof.Machine

namespace Machine

@[simp] theorem length_natBits (w v : Nat) : (natBits w v).length = w := by
  induction w generalizing v with
  | zero => rfl
  | succ w ih => simp [natBits, ih]

@[simp] theorem length_fieldBits {w : Nat} (v : BitVec w) : (fieldBits v).length = w := by simp [fieldBits]

/-- The bits of a field read back as its value (20_memory.md R66). -/
theorem bitsToNat_natBits (w v : Nat) (h : v < 2 ^ w) : bitsToNat (natBits w v) = v := by
  induction w generalizing v with
  | zero => simp at h; simp [natBits, bitsToNat, h]
  | succ w ih =>
    simp only [natBits, bitsToNat]
    rw [ih (v / 2) (by rw [Nat.pow_succ] at h; omega)]
    rcases Nat.mod_two_eq_zero_or_one v with h0 | h1
    · simp [h0]; omega
    · simp [h1]; omega

theorem bitsToNat_fieldBits {w : Nat} (v : BitVec w) : bitsToNat (fieldBits v) = v.toNat :=
  bitsToNat_natBits w v.toNat v.isLt

theorem bitsToNat_lt (bits : List Bool) : bitsToNat bits < 2 ^ bits.length := by
  induction bits with
  | nil => simp [bitsToNat]
  | cons b bits ih =>
    have hb : b.toNat ≤ 1 := Bool.toNat_le b
    simp only [bitsToNat, List.length_cons, Nat.pow_succ]
    omega

@[simp] theorem length_streamBits (src : Memory) (p k : Nat) : (streamBits src p k).length = k := by
  induction k generalizing p with
  | zero => rfl
  | succ k ih => simp [streamBits, ih]

theorem sum_codeReads (n : Nat) : (codeReads n).sum = n := by simp [codeReads]

end Machine

/-- A field that is there is read as its value, and the bits after it are left (40_bitcursor.md R123). -/
theorem takeField_append {w : Nat} (v : BitVec w) (rest : List Bool) (k : BitVec w → List Bool → Decoded) :
    takeField w (fieldBits v ++ rest) k = k v rest := by
  have h : ¬ w + rest.length < w := by omega
  simp [takeField, bitsToNat_fieldBits, h]

/-- A code that is there is read as its symbol, and the bits after it are left. -/
theorem takeCode_of_ok {t : Tree} {bits rest : List Bool} {sym n : Nat} (k : Nat → Nat → List Bool → Decoded)
    (h : decodeSymbol t bits = .ok (sym, n, rest)) : takeCode t bits k = k sym n rest := by
  simp [takeCode, h]

/-- Where a field read goes on, the field was there: the bits split into it and the rest. -/
theorem takeField_ok {w : Nat} {bits : List Bool} {k : BitVec w → List Bool → Decoded} {r : Instr × List Bool}
    (h : takeField w bits k = .ok r) :
    ∃ used rest, bits = used ++ rest ∧ used.length = w ∧ k (BitVec.ofNat w (bitsToNat used)) rest = .ok r := by
  unfold takeField at h
  split at h
  · simp at h
  · refine ⟨bits.take w, bits.drop w, by simp, ?_, h⟩
    rw [List.length_take]
    omega

theorem takeField_of_length {w : Nat} {used rest : List Bool} {k : BitVec w → List Bool → Decoded}
    (h : used.length = w) : takeField w (used ++ rest) k = k (BitVec.ofNat w (bitsToNat used)) rest := by
  subst h
  have h : ¬ used.length + rest.length < used.length := by omega
  simp [takeField, h]

theorem takeCode_ok {t : Tree} {bits : List Bool} {k : Nat → Nat → List Bool → Decoded} {r : Instr × List Bool}
    (h : takeCode t bits k = .ok r) :
    ∃ sym n rest, decodeSymbol t bits = .ok (sym, n, rest) ∧ k sym n rest = .ok r := by
  unfold takeCode at h
  split at h
  · simp at h
  · exact ⟨_, _, _, by assumption, h⟩

/-- What a successful decode of format `f` says of the element and of the bits it took. -/
structure DecodedAs (f : Format) (align : Nat) (i : Instr) : Prop where
  format : i.format = f
  wellFormed : i.wellFormed = true
  width : i.width align ≤ longestElement

/-- `dec` gives element `i` and leaves `rest`, having taken `i.width align` bits, and what follows them does not
matter. -/
def Takes (align : Nat) (dec : List Bool → Decoded) (bits : List Bool) (i : Instr) (rest : List Bool) (n : Nat) :
    Prop :=
  ∃ used, bits = used ++ rest ∧ n + used.length = i.width align ∧ ∀ rest', dec (used ++ rest') = .ok (i, rest')

/-- A continuation that ends at once takes no bits of its own. -/
theorem Takes.done {align : Nat} {i : Instr} {bits : List Bool} {n : Nat} (h : n = i.width align) :
    Takes align (fun bits => .ok (i, bits)) bits i bits n :=
  ⟨[], rfl, by simpa using h, fun _ => rfl⟩

/-- A continuation that reads one field of `w` bits takes them. -/
theorem Takes.field {align w : Nat} {mk : BitVec w → Instr} {bits rest : List Bool} {i : Instr} {n : Nat}
    (h : takeField w bits (fun v r => .ok (mk v, r)) = .ok (i, rest)) (hw : ∀ v, n + w = (mk v).width align) :
    (∃ v, i = mk v) ∧ Takes align (fun bits => takeField w bits fun v r => .ok (mk v, r)) bits i rest n := by
  obtain ⟨used, rest', rfl, hlen, hk⟩ := takeField_ok h
  simp only [Except.ok.injEq, Prod.mk.injEq] at hk
  obtain ⟨rfl, rfl⟩ := hk
  refine ⟨⟨_, rfl⟩, used, rfl, by rw [hlen]; exact hw _, fun rest'' => takeField_of_length hlen⟩

theorem codeLenOk_of {n : Nat} (h1 : 1 ≤ n) (h2 : n ≤ 15) : codeLenOk n = true := by simp [codeLenOk, h1, h2]

/-- What `decodeLitLen` can give after a code of `n` bits. -/
theorem decodeLitLen_ok {sym n align : Nat} {bits rest : List Bool} {i : Instr} (h1 : 1 ≤ n) (h2 : n ≤ 15)
    (h : decodeLitLen sym n bits = .ok (i, rest)) :
    DecodedAs .llsym align i ∧ Takes align (decodeLitLen sym n) bits i rest n := by
  have hn := codeLenOk_of h1 h2
  unfold decodeLitLen at h ⊢
  split at h
  · rename_i hs
    simp only [Except.ok.injEq, Prod.mk.injEq] at h
    obtain ⟨rfl, rfl⟩ := h
    simp only [if_pos hs]
    exact ⟨⟨rfl, hn, by simp [Instr.width, longestElement]; omega⟩, Takes.done rfl⟩
  · rename_i hs
    simp only [if_neg hs]
    split at h <;> first
      | (simp only [Except.ok.injEq, Prod.mk.injEq] at h
         obtain ⟨rfl, rfl⟩ := h
         exact ⟨⟨rfl, hn, by simp [Instr.width, longestElement]; omega⟩, Takes.done rfl⟩)
      | (obtain ⟨⟨v, rfl⟩, h⟩ := Takes.field h (fun _ => rfl)
         exact ⟨⟨rfl, hn, by simp [Instr.width, longestElement]; omega⟩, h⟩)
      | simp at h

/-- What `decodeDistance` can give after a code of `n` bits. -/
theorem decodeDistance_ok {sym n align : Nat} {bits rest : List Bool} {i : Instr} (h1 : 1 ≤ n) (h2 : n ≤ 15)
    (h : decodeDistance sym n bits = .ok (i, rest)) :
    DecodedAs .dsym align i ∧ Takes align (decodeDistance sym n) bits i rest n := by
  have hn := codeLenOk_of h1 h2
  unfold decodeDistance at h ⊢
  split at h <;> first
    | (simp only [Except.ok.injEq, Prod.mk.injEq] at h
       obtain ⟨rfl, rfl⟩ := h
       exact ⟨⟨rfl, hn, by simp [Instr.width, longestElement]; omega⟩, Takes.done rfl⟩)
    | (obtain ⟨⟨v, rfl⟩, h⟩ := Takes.field h (fun _ => rfl)
       exact ⟨⟨rfl, hn, by simp [Instr.width, longestElement]; omega⟩, h⟩)
    | simp at h

/-- What `decodeCodeLength` can give after a code of `n` bits. -/
theorem decodeCodeLength_ok {noPrevious : Bool} {sym n align : Nat} {bits rest : List Bool} {i : Instr}
    (h1 : 1 ≤ n) (h2 : n ≤ 15) (h : decodeCodeLength noPrevious sym n bits = .ok (i, rest)) :
    DecodedAs .clsym align i ∧ Takes align (decodeCodeLength noPrevious sym n) bits i rest n := by
  have hn := codeLenOk_of h1 h2
  unfold decodeCodeLength at h ⊢
  split at h
  · rename_i hs
    simp only [Except.ok.injEq, Prod.mk.injEq] at h
    obtain ⟨rfl, rfl⟩ := h
    simp only [if_pos hs]
    exact ⟨⟨rfl, hn, by simp [Instr.width, longestElement]; omega⟩, Takes.done rfl⟩
  · rename_i hs
    simp only [if_neg hs]
    split at h
    · split at h
      · simp at h
      · rename_i hp
        simp only [hp]
        obtain ⟨⟨v, rfl⟩, h⟩ := Takes.field h (fun _ => rfl)
        exact ⟨⟨rfl, hn, by simp [Instr.width, longestElement]; omega⟩, h⟩
    · obtain ⟨⟨v, rfl⟩, h⟩ := Takes.field h (fun _ => rfl)
      exact ⟨⟨rfl, hn, by simp [Instr.width, longestElement]; omega⟩, h⟩
    · obtain ⟨⟨v, rfl⟩, h⟩ := Takes.field h (fun _ => rfl)
      exact ⟨⟨rfl, hn, by simp [Instr.width, longestElement]; omega⟩, h⟩
    · simp at h

/-- A code and then what its symbol takes. -/
theorem takes_code {f : Format} {align : Nat} {t : Tree} {k : Nat → Nat → List Bool → Decoded} {bits rest : List Bool}
    {i : Instr} (h : takeCode t bits k = .ok (i, rest))
    (hk : ∀ {sym n : Nat} {bits : List Bool}, 1 ≤ n → n ≤ 15 → k sym n bits = .ok (i, rest) →
      DecodedAs f align i ∧ Takes align (k sym n) bits i rest n) :
    DecodedAs f align i ∧ Takes align (fun bits => takeCode t bits k) bits i rest 0 := by
  obtain ⟨sym, n, rest', hd, hr⟩ := takeCode_ok h
  obtain ⟨h1, h2, _, code, rfl, hlen, hall⟩ := decodeSymbol_ok hd
  obtain ⟨has, used, rfl, hw, hu⟩ := hk h1 h2 hr
  refine ⟨has, code ++ used, by simp, by simp [hlen, hw], fun rest'' => ?_⟩
  rw [List.append_assoc]
  exact (takeCode_of_ok k (hall _)).trans (hu rest'')

/-- A format that is one field. -/
theorem decode_field {f : Format} {c : DecodeCtx} {w : Nat} {mk : BitVec w → Instr} {bits rest : List Bool} {i : Instr}
    (hd : ∀ bits, decode f c bits = takeField w bits fun v r => .ok (mk v, r))
    (hmk : ∀ v, DecodedAs f c.align (mk v) ∧ w = (mk v).width c.align) (h : decode f c bits = .ok (i, rest)) :
    DecodedAs f c.align i ∧ Takes c.align (decode f c) bits i rest 0 := by
  rw [hd] at h
  obtain ⟨⟨v, rfl⟩, h⟩ := Takes.field (align := c.align) (n := 0) h (fun v => by simpa using (hmk v).2)
  exact ⟨(hmk v).1, by rwa [funext hd]⟩

/-- What a successful decode says of the element: its format, that it is well formed, that the bits it took are as many
as its width, and that no bit after them matters. -/
theorem decode_ok {f : Format} {c : DecodeCtx} {bits rest : List Bool} {i : Instr}
    (h : decode f c bits = .ok (i, rest)) :
    DecodedAs f c.align i ∧ Takes c.align (decode f c) bits i rest 0 := by
  cases f with
  | f1 => exact decode_field (fun _ => rfl) (fun v => ⟨⟨rfl, rfl, by simp [Instr.width, longestElement]⟩, rfl⟩) h
  | f2 =>
    refine decode_field (mk := fun v : BitVec 2 => decodeBtype v.toNat) (fun _ => rfl) (fun v => ?_) h
    unfold decodeBtype
    split <;> exact ⟨⟨rfl, rfl, by simp [Instr.width, longestElement]⟩, rfl⟩
  | sh32 =>
    simp only [decode] at h
    split at h
    · simp at h
    · rename_i hpad
      obtain ⟨u1, r1, hb, hl1, h⟩ := takeField_ok h
      obtain ⟨u2, r2, rfl, hl2, h⟩ := takeField_ok h
      simp only [Except.ok.injEq, Prod.mk.injEq] at h
      obtain ⟨rfl, rfl⟩ := h
      have hp : padOf c.align < 8 := by unfold padOf; omega
      refine ⟨⟨rfl, rfl, by simp [Instr.width, longestElement]; omega⟩,
        bits.take (padOf c.align) ++ (u1 ++ u2), ?_, ?_, fun rest' => ?_⟩
      · rw [List.append_assoc, List.append_assoc, ← hb, List.take_append_drop]
      · simp [Instr.width, hl1, hl2]; omega
      · have ht : (bits.take (padOf c.align)).length = padOf c.align := by rw [List.length_take]; omega
        simp only [decode]
        rw [if_neg (by simp; omega), List.append_assoc, List.drop_append_of_le_length (by omega),
          List.drop_of_length_le (by omega), List.nil_append, List.append_assoc, takeField_of_length hl1,
          takeField_of_length hl2]
  | b8 => exact decode_field (fun _ => rfl) (fun v => ⟨⟨rfl, rfl, by simp [Instr.width, longestElement]⟩, rfl⟩) h
  | z0 =>
    simp only [decode, Except.ok.injEq, Prod.mk.injEq] at h
    obtain ⟨rfl, rfl⟩ := h
    exact ⟨⟨rfl, rfl, by simp [Instr.width, longestElement]⟩, Takes.done rfl⟩
  | f5h =>
    simp only [decode] at h
    obtain ⟨used, r, rfl, hlen, hk⟩ := takeField_ok h
    have key : ∀ rest', decode .f5h c (used ++ rest') = .ok (i, rest') ∧ r = rest := by
      intro rest'
      simp only [decode]
      rw [takeField_of_length hlen]
      split at hk <;>
        (rename_i h30
         simp only [Except.ok.injEq, Prod.mk.injEq] at hk
         obtain ⟨rfl, rfl⟩ := hk
         first | exact ⟨if_pos h30, rfl⟩ | exact ⟨if_neg h30, rfl⟩)
    have hr := (key []).2
    subst hr
    split at hk <;> (rename_i h30; simp only [Except.ok.injEq, Prod.mk.injEq] at hk; obtain ⟨rfl, _⟩ := hk)
    · exact ⟨⟨rfl, by simpa [Instr.wellFormed] using h30, by simp [Instr.width, longestElement]⟩, used, rfl, by simp [Instr.width, hlen],
        fun rest' => (key rest').1⟩
    · exact ⟨⟨rfl, rfl, by simp [Instr.width, longestElement]⟩, used, rfl, by simp [Instr.width, hlen], fun rest' => (key rest').1⟩
  | f5d => exact decode_field (fun _ => rfl) (fun v => ⟨⟨rfl, rfl, by simp [Instr.width, longestElement]⟩, rfl⟩) h
  | f4 => exact decode_field (fun _ => rfl) (fun v => ⟨⟨rfl, rfl, by simp [Instr.width, longestElement]⟩, rfl⟩) h
  | f3 => exact decode_field (fun _ => rfl) (fun v => ⟨⟨rfl, rfl, by simp [Instr.width, longestElement]⟩, rfl⟩) h
  | clsym => exact takes_code h decodeCodeLength_ok
  | llsym => exact takes_code h decodeLitLen_ok
  | dsym => exact takes_code h decodeDistance_ok

end Sys2Proof
end

