-- ==== Sys2Proof/Laws/Cursor.lean ====
section
/-! SUPPORT. The buffered reader of 40_bitcursor.md R128 to R130: one turn of the refill loop keeps it coherent. -/

namespace Sys2Proof.Machine

/-- A stream bit of the byte at index `i`. -/
theorem streamBit_in_byte {src : Memory} {p i j : Nat} (h : p = 8 * i + j) (hj : j < 8) :
    streamBit src p = (src.read i).getLsbD j := by
  have h1 : p / 8 = i := by omega
  have h2 : p % 8 = j := by omega
  rw [streamBit, h1, h2]

/-- One turn of the refill loop keeps the reader coherent (40_bitcursor.md R128; 10_state.md R40). -/
theorem BitCursor.load_coherent {c : BitCursor} {src : Memory} {n p : Nat} (hn : n < 2 ^ 29)
    (h : c.Coherent src n p) (hc : c.bitCnt.toNat < Config.refillThreshold) (hi : c.srcIdx.toNat < n) :
    (c.load src).Coherent src n p ∧ (c.load src).bitCnt.toNat = c.bitCnt.toNat + 8 ∧
      (c.load src).srcIdx.toNat = c.srcIdx.toNat + 1 := by
  have hc' : c.bitCnt.toNat < 24 := hc
  have hcnt : (c.load src).bitCnt.toNat = c.bitCnt.toNat + 8 := by
    simp only [BitCursor.load, BitVec.toNat_add, show (8 : BitVec 5).toNat = 8 from rfl]
    omega
  have hidx : (c.load src).srcIdx.toNat = c.srcIdx.toNat + 1 := by
    simp only [BitCursor.load, BitVec.toNat_add, show (1 : Word).toNat = 1 from rfl]
    omega
  have hpos := h.position
  refine ⟨⟨by omega, by omega, fun k hk => ?_⟩, hcnt, hidx⟩
  rw [hcnt]
  simp only [BitCursor.load, BitVec.getLsbD_or, BitVec.getLsbD_shiftLeft, BitVec.getLsbD_setWidth, h.buffer k hk]
  by_cases h1 : k < c.bitCnt.toNat
  · simp [h1, show k < c.bitCnt.toNat + 8 by omega]
  · by_cases h2 : k < c.bitCnt.toNat + 8
    · rw [streamBit_in_byte (i := c.srcIdx.toNat) (j := k - c.bitCnt.toNat) (by omega) (by omega)]
      simp [h1, h2, hk, show k - c.bitCnt.toNat < 32 by omega]
    · have h3 : 8 ≤ k - c.bitCnt.toNat := by omega
      simp [h1, h2, BitVec.getLsbD_of_ge _ _ h3]

end Sys2Proof.Machine
end

