-- ==== Sys2Proof/Laws/Memory.lean ====
section
/-! SUPPORT. The laws of a byte memory: what a read after a write gives, and that a write keeps the canonical form. -/

namespace Sys2Proof.Machine

theorem Memory.wf_nil : Memory.wf [] := by simp [Memory.wf]

/-- A canonical memory read below its first listed index. -/
theorem Memory.read_of_lt (m : Memory) (a : Nat) (h : ∀ c ∈ m, a < c.1) : m.read a = Memory.unlisted := by
  induction m with
  | nil => rfl
  | cons c rest ih =>
    have hc := h c (by simp)
    simp only [Memory.read]
    rw [if_neg (by omega)]
    exact ih fun x hx => h x (by simp [hx])

@[simp] theorem Memory.read_write_same (m : Memory) (a : Nat) (b : Byte) (hm : m.wf) :
    (m.write a b).read a = b := by
  induction m with
  | nil =>
    simp only [Memory.write]
    split
    · simp_all [Memory.read]
    · simp [Memory.read]
  | cons c rest ih =>
    obtain ⟨k, x⟩ := c
    have hp := List.pairwise_cons.mp hm.1
    have hlt : ∀ c ∈ rest, k < c.1 := fun y hy => hp.1 y hy
    have hrest : Memory.wf rest := ⟨hp.2, fun y hy => hm.2 y (by simp [hy])⟩
    simp only [Memory.write]
    split
    · rename_i h1
      split
      · rename_i h2
        simp only [Memory.read]
        rw [if_neg (by omega), Memory.read_of_lt _ _ (fun y hy => Nat.lt_trans h1 (hlt y hy)), h2]
      · simp [Memory.read]
    · split
      · rename_i h1 h2
        subst h2
        split
        · rename_i h3
          rw [Memory.read_of_lt _ _ (fun y hy => hlt y hy), h3]
        · simp [Memory.read]
      · rename_i h1 h2
        simp only [Memory.read]
        rw [if_neg (by omega)]
        exact ih hrest

@[simp] theorem Memory.read_write_other (m : Memory) (a i : Nat) (b : Byte) (h : i ≠ a) :
    (m.write a b).read i = m.read i := by
  induction m with
  | nil =>
    simp only [Memory.write]
    split
    · rfl
    · simp [Memory.read, Ne.symm h]
  | cons c rest ih =>
    obtain ⟨k, x⟩ := c
    simp only [Memory.write]
    split
    · split
      · rfl
      · simp [Memory.read, Ne.symm h]
    · split
      · rename_i h1 h2
        subst h2
        split <;> simp [Memory.read, Ne.symm h]
      · simp only [Memory.read, ih]

/-- What a written memory lists: the new pair, or a pair it listed before. -/
theorem Memory.mem_write (m : Memory) (a : Nat) (b : Byte) (c : Host.Cell) (h : c ∈ m.write a b) :
    c = (a, b) ∧ b ≠ Memory.unlisted ∨ c ∈ m := by
  induction m with
  | nil =>
    simp only [Memory.write] at h
    split at h
    · simp at h
    · simp_all
  | cons d rest ih =>
    obtain ⟨k, x⟩ := d
    simp only [Memory.write] at h
    split at h
    · split at h
      · exact .inr h
      · rcases List.mem_cons.mp h with h | h
        · exact .inl ⟨h, by assumption⟩
        · exact .inr h
    · split at h
      · split at h
        · exact .inr (List.mem_cons_of_mem _ h)
        · rcases List.mem_cons.mp h with h | h
          · exact .inl ⟨h, by assumption⟩
          · exact .inr (List.mem_cons_of_mem _ h)
      · rcases List.mem_cons.mp h with h | h
        · exact .inr (by simp [h])
        · rcases ih h with h | h
          · exact .inl h
          · exact .inr (List.mem_cons_of_mem _ h)

/-- Every write keeps the canonical form. -/
theorem Memory.write_wf (m : Memory) (a : Nat) (b : Byte) (hm : m.wf) : (m.write a b).wf := by
  refine ⟨?_, fun c hc => ?_⟩
  · induction m with
    | nil =>
      simp only [Memory.write]
      split <;> simp
    | cons d rest ih =>
      obtain ⟨k, x⟩ := d
      have hp := List.pairwise_cons.mp hm.1
      have hrest : Memory.wf rest := ⟨hp.2, fun y hy => hm.2 y (by simp [hy])⟩
      simp only [Memory.write]
      split
      · split
        · exact hm.1
        · refine List.pairwise_cons.mpr ⟨fun y hy => ?_, hm.1⟩
          rcases List.mem_cons.mp hy with rfl | hy
          · assumption
          · exact Nat.lt_trans (by assumption) (hp.1 y hy)
      · split
        · rename_i h1 h2
          subst h2
          split
          · exact hp.2
          · exact List.pairwise_cons.mpr ⟨fun y hy => hp.1 y hy, hp.2⟩
        · refine List.pairwise_cons.mpr ⟨fun y hy => ?_, ih hrest⟩
          rcases Memory.mem_write _ _ _ _ hy with ⟨rfl, _⟩ | hy
          · simp only; omega
          · exact hp.1 y hy
  · rcases Memory.mem_write _ _ _ _ hc with ⟨rfl, h⟩ | h
    · exact h
    · exact hm.2 c h

end Sys2Proof.Machine
end

