-- ==== Sys2Proof/Laws/State.lean ====
section
/-! SUPPORT. One lemma for each field of State under each named update: what the field is afterwards. Citing them, no
proof unfolds a record update. -/

namespace Sys2Proof.Machine

variable (s : State)

/-! ### `advance` (40_bitcursor.md R122, R123) -/

@[simp] theorem State.advance_p (ws : List Nat) : (s.advance ws).p = s.p + BitVec.ofNat 32 ws.sum := rfl
@[simp] theorem State.advance_outlen (ws : List Nat) : (s.advance ws).outlen = s.outlen := rfl
@[simp] theorem State.advance_phase (ws : List Nat) : (s.advance ws).phase = s.phase := rfl
@[simp] theorem State.advance_bfinal (ws : List Nat) : (s.advance ws).bfinal = s.bfinal := rfl
@[simp] theorem State.advance_btype (ws : List Nat) : (s.advance ws).btype = s.btype := rfl
@[simp] theorem State.advance_active (ws : List Nat) : (s.advance ws).active = s.active := rfl
@[simp] theorem State.advance_hlit (ws : List Nat) : (s.advance ws).hlit = s.hlit := rfl
@[simp] theorem State.advance_hdist (ws : List Nat) : (s.advance ws).hdist = s.hdist := rfl
@[simp] theorem State.advance_hclen (ws : List Nat) : (s.advance ws).hclen = s.hclen := rfl
@[simp] theorem State.advance_cli (ws : List Nat) : (s.advance ws).cli = s.cli := rfl
@[simp] theorem State.advance_cllen (ws : List Nat) : (s.advance ws).cllen = s.cllen := rfl
@[simp] theorem State.advance_lens (ws : List Nat) : (s.advance ws).lens = s.lens := rfl
@[simp] theorem State.advance_num (ws : List Nat) : (s.advance ws).num = s.num := rfl
@[simp] theorem State.advance_storedRem (ws : List Nat) : (s.advance ws).storedRem = s.storedRem := rfl
@[simp] theorem State.advance_clt (ws : List Nat) : (s.advance ws).clt = s.clt := rfl
@[simp] theorem State.advance_dlt (ws : List Nat) : (s.advance ws).dlt = s.dlt := rfl
@[simp] theorem State.advance_ddt (ws : List Nat) : (s.advance ws).ddt = s.ddt := rfl
@[simp] theorem State.advance_errcode (ws : List Nat) : (s.advance ws).errcode = s.errcode := rfl
@[simp] theorem State.advance_trace (ws : List Nat) : (s.advance ws).trace = s.trace := rfl
@[simp] theorem State.advance_traceCount (ws : List Nat) : (s.advance ws).traceCount = s.traceCount := rfl
@[simp] theorem State.advance_cursor (ws : List Nat) :
    (s.advance ws).cursor = ws.foldl (BitCursor.skip s.src s.runN.toNat) s.cursor := rfl
@[simp] theorem State.advance_srcLen (ws : List Nat) : (s.advance ws).srcLen = s.srcLen := rfl
@[simp] theorem State.advance_dstCap (ws : List Nat) : (s.advance ws).dstCap = s.dstCap := rfl
@[simp] theorem State.advance_runN (ws : List Nat) : (s.advance ws).runN = s.runN := rfl
@[simp] theorem State.advance_runC (ws : List Nat) : (s.advance ws).runC = s.runC := rfl
@[simp] theorem State.advance_src (ws : List Nat) : (s.advance ws).src = s.src := rfl
@[simp] theorem State.advance_dst (ws : List Nat) : (s.advance ws).dst = s.dst := rfl
@[simp] theorem State.advance_matchPart (ws : List Nat) : (s.advance ws).matchPart = s.matchPart := rfl
@[simp] theorem State.advance_traceReady (ws : List Nat) : (s.advance ws).traceReady = s.traceReady := rfl
@[simp] theorem State.advance_readData (ws : List Nat) : (s.advance ws).readData = s.readData := rfl
@[simp] theorem State.advance_host (ws : List Nat) : (s.advance ws).host = s.host := rfl
@[simp] theorem State.advance_freeCount (ws : List Nat) : (s.advance ws).freeCount = s.freeCount := rfl

/-! ### `alignToByte` (40_bitcursor.md R125) -/

@[simp] theorem State.alignToByte_p : s.alignToByte.p = s.p + BitVec.ofNat 32 (padOf s.p.toNat) := rfl
@[simp] theorem State.alignToByte_outlen : s.alignToByte.outlen = s.outlen := rfl
@[simp] theorem State.alignToByte_phase : s.alignToByte.phase = s.phase := rfl
@[simp] theorem State.alignToByte_bfinal : s.alignToByte.bfinal = s.bfinal := rfl
@[simp] theorem State.alignToByte_btype : s.alignToByte.btype = s.btype := rfl
@[simp] theorem State.alignToByte_active : s.alignToByte.active = s.active := rfl
@[simp] theorem State.alignToByte_hlit : s.alignToByte.hlit = s.hlit := rfl
@[simp] theorem State.alignToByte_hdist : s.alignToByte.hdist = s.hdist := rfl
@[simp] theorem State.alignToByte_hclen : s.alignToByte.hclen = s.hclen := rfl
@[simp] theorem State.alignToByte_cli : s.alignToByte.cli = s.cli := rfl
@[simp] theorem State.alignToByte_cllen : s.alignToByte.cllen = s.cllen := rfl
@[simp] theorem State.alignToByte_lens : s.alignToByte.lens = s.lens := rfl
@[simp] theorem State.alignToByte_num : s.alignToByte.num = s.num := rfl
@[simp] theorem State.alignToByte_storedRem : s.alignToByte.storedRem = s.storedRem := rfl
@[simp] theorem State.alignToByte_clt : s.alignToByte.clt = s.clt := rfl
@[simp] theorem State.alignToByte_dlt : s.alignToByte.dlt = s.dlt := rfl
@[simp] theorem State.alignToByte_ddt : s.alignToByte.ddt = s.ddt := rfl
@[simp] theorem State.alignToByte_errcode : s.alignToByte.errcode = s.errcode := rfl
@[simp] theorem State.alignToByte_trace : s.alignToByte.trace = s.trace := rfl
@[simp] theorem State.alignToByte_traceCount : s.alignToByte.traceCount = s.traceCount := rfl
@[simp] theorem State.alignToByte_cursor : s.alignToByte.cursor = s.cursor.align := rfl
@[simp] theorem State.alignToByte_srcLen : s.alignToByte.srcLen = s.srcLen := rfl
@[simp] theorem State.alignToByte_dstCap : s.alignToByte.dstCap = s.dstCap := rfl
@[simp] theorem State.alignToByte_runN : s.alignToByte.runN = s.runN := rfl
@[simp] theorem State.alignToByte_runC : s.alignToByte.runC = s.runC := rfl
@[simp] theorem State.alignToByte_src : s.alignToByte.src = s.src := rfl
@[simp] theorem State.alignToByte_dst : s.alignToByte.dst = s.dst := rfl
@[simp] theorem State.alignToByte_matchPart : s.alignToByte.matchPart = s.matchPart := rfl
@[simp] theorem State.alignToByte_traceReady : s.alignToByte.traceReady = s.traceReady := rfl
@[simp] theorem State.alignToByte_readData : s.alignToByte.readData = s.readData := rfl
@[simp] theorem State.alignToByte_host : s.alignToByte.host = s.host := rfl
@[simp] theorem State.alignToByte_freeCount : s.alignToByte.freeCount = s.freeCount := rfl

/-! ### `raise` (60_exceptions.md R335, R336) -/

@[simp] theorem State.raise_p (err : ErrCode) (e : Word) : (s.raise err e).p = e := rfl
@[simp] theorem State.raise_outlen (err : ErrCode) (e : Word) : (s.raise err e).outlen = s.outlen := rfl
@[simp] theorem State.raise_phase (err : ErrCode) (e : Word) : (s.raise err e).phase = .error := rfl
@[simp] theorem State.raise_bfinal (err : ErrCode) (e : Word) : (s.raise err e).bfinal = s.bfinal := rfl
@[simp] theorem State.raise_btype (err : ErrCode) (e : Word) : (s.raise err e).btype = s.btype := rfl
@[simp] theorem State.raise_active (err : ErrCode) (e : Word) : (s.raise err e).active = s.active := rfl
@[simp] theorem State.raise_hlit (err : ErrCode) (e : Word) : (s.raise err e).hlit = s.hlit := rfl
@[simp] theorem State.raise_hdist (err : ErrCode) (e : Word) : (s.raise err e).hdist = s.hdist := rfl
@[simp] theorem State.raise_hclen (err : ErrCode) (e : Word) : (s.raise err e).hclen = s.hclen := rfl
@[simp] theorem State.raise_cli (err : ErrCode) (e : Word) : (s.raise err e).cli = s.cli := rfl
@[simp] theorem State.raise_cllen (err : ErrCode) (e : Word) : (s.raise err e).cllen = s.cllen := rfl
@[simp] theorem State.raise_lens (err : ErrCode) (e : Word) : (s.raise err e).lens = s.lens := rfl
@[simp] theorem State.raise_num (err : ErrCode) (e : Word) : (s.raise err e).num = s.num := rfl
@[simp] theorem State.raise_storedRem (err : ErrCode) (e : Word) : (s.raise err e).storedRem = s.storedRem := rfl
@[simp] theorem State.raise_clt (err : ErrCode) (e : Word) : (s.raise err e).clt = s.clt := rfl
@[simp] theorem State.raise_dlt (err : ErrCode) (e : Word) : (s.raise err e).dlt = s.dlt := rfl
@[simp] theorem State.raise_ddt (err : ErrCode) (e : Word) : (s.raise err e).ddt = s.ddt := rfl
@[simp] theorem State.raise_errcode (err : ErrCode) (e : Word) : (s.raise err e).errcode = err := rfl
@[simp] theorem State.raise_trace (err : ErrCode) (e : Word) : (s.raise err e).trace = s.trace := rfl
@[simp] theorem State.raise_traceCount (err : ErrCode) (e : Word) : (s.raise err e).traceCount = s.traceCount := rfl
@[simp] theorem State.raise_cursor (err : ErrCode) (e : Word) :
    (s.raise err e).cursor =
      { srcIdx := Config.freeSrcIdx s.freeCount, bitBuf := Config.freeBitBuf s.freeCount, bitCnt := Config.freeBitCnt s.freeCount } := rfl
@[simp] theorem State.raise_srcLen (err : ErrCode) (e : Word) : (s.raise err e).srcLen = s.srcLen := rfl
@[simp] theorem State.raise_dstCap (err : ErrCode) (e : Word) : (s.raise err e).dstCap = s.dstCap := rfl
@[simp] theorem State.raise_runN (err : ErrCode) (e : Word) : (s.raise err e).runN = s.runN := rfl
@[simp] theorem State.raise_runC (err : ErrCode) (e : Word) : (s.raise err e).runC = s.runC := rfl
@[simp] theorem State.raise_src (err : ErrCode) (e : Word) : (s.raise err e).src = s.src := rfl
@[simp] theorem State.raise_dst (err : ErrCode) (e : Word) : (s.raise err e).dst = s.dst := rfl
@[simp] theorem State.raise_matchPart (err : ErrCode) (e : Word) : (s.raise err e).matchPart = none := rfl
@[simp] theorem State.raise_traceReady (err : ErrCode) (e : Word) : (s.raise err e).traceReady = s.traceReady := rfl
@[simp] theorem State.raise_readData (err : ErrCode) (e : Word) : (s.raise err e).readData = s.readData := rfl
@[simp] theorem State.raise_host (err : ErrCode) (e : Word) : (s.raise err e).host = s.host := rfl
@[simp] theorem State.raise_freeCount (err : ErrCode) (e : Word) : (s.raise err e).freeCount = s.freeCount + 1 := rfl

/-! ### `emit` (45_trace.md R270) -/

@[simp] theorem State.emit_p (r : TraceRecord) : (s.emit r).p = s.p := rfl
@[simp] theorem State.emit_outlen (r : TraceRecord) : (s.emit r).outlen = s.outlen := rfl
@[simp] theorem State.emit_phase (r : TraceRecord) : (s.emit r).phase = s.phase := rfl
@[simp] theorem State.emit_bfinal (r : TraceRecord) : (s.emit r).bfinal = s.bfinal := rfl
@[simp] theorem State.emit_btype (r : TraceRecord) : (s.emit r).btype = s.btype := rfl
@[simp] theorem State.emit_active (r : TraceRecord) : (s.emit r).active = s.active := rfl
@[simp] theorem State.emit_hlit (r : TraceRecord) : (s.emit r).hlit = s.hlit := rfl
@[simp] theorem State.emit_hdist (r : TraceRecord) : (s.emit r).hdist = s.hdist := rfl
@[simp] theorem State.emit_hclen (r : TraceRecord) : (s.emit r).hclen = s.hclen := rfl
@[simp] theorem State.emit_cli (r : TraceRecord) : (s.emit r).cli = s.cli := rfl
@[simp] theorem State.emit_cllen (r : TraceRecord) : (s.emit r).cllen = s.cllen := rfl
@[simp] theorem State.emit_lens (r : TraceRecord) : (s.emit r).lens = s.lens := rfl
@[simp] theorem State.emit_num (r : TraceRecord) : (s.emit r).num = s.num := rfl
@[simp] theorem State.emit_storedRem (r : TraceRecord) : (s.emit r).storedRem = s.storedRem := rfl
@[simp] theorem State.emit_clt (r : TraceRecord) : (s.emit r).clt = s.clt := rfl
@[simp] theorem State.emit_dlt (r : TraceRecord) : (s.emit r).dlt = s.dlt := rfl
@[simp] theorem State.emit_ddt (r : TraceRecord) : (s.emit r).ddt = s.ddt := rfl
@[simp] theorem State.emit_errcode (r : TraceRecord) : (s.emit r).errcode = s.errcode := rfl
@[simp] theorem State.emit_trace (r : TraceRecord) : (s.emit r).trace = s.trace ++ [r] := rfl
@[simp] theorem State.emit_traceCount (r : TraceRecord) : (s.emit r).traceCount = s.traceCount + 1 := rfl
@[simp] theorem State.emit_cursor (r : TraceRecord) : (s.emit r).cursor = s.cursor := rfl
@[simp] theorem State.emit_srcLen (r : TraceRecord) : (s.emit r).srcLen = s.srcLen := rfl
@[simp] theorem State.emit_dstCap (r : TraceRecord) : (s.emit r).dstCap = s.dstCap := rfl
@[simp] theorem State.emit_runN (r : TraceRecord) : (s.emit r).runN = s.runN := rfl
@[simp] theorem State.emit_runC (r : TraceRecord) : (s.emit r).runC = s.runC := rfl
@[simp] theorem State.emit_src (r : TraceRecord) : (s.emit r).src = s.src := rfl
@[simp] theorem State.emit_dst (r : TraceRecord) : (s.emit r).dst = s.dst := rfl
@[simp] theorem State.emit_matchPart (r : TraceRecord) : (s.emit r).matchPart = s.matchPart := rfl
@[simp] theorem State.emit_traceReady (r : TraceRecord) : (s.emit r).traceReady = s.traceReady := rfl
@[simp] theorem State.emit_readData (r : TraceRecord) : (s.emit r).readData = s.readData := rfl
@[simp] theorem State.emit_host (r : TraceRecord) : (s.emit r).host = s.host := rfl
@[simp] theorem State.emit_freeCount (r : TraceRecord) : (s.emit r).freeCount = s.freeCount := rfl

/-! ### `putByte` (20_memory.md R63) -/

@[simp] theorem State.putByte_p (b : Byte) : (s.putByte b).p = s.p := rfl
@[simp] theorem State.putByte_outlen (b : Byte) : (s.putByte b).outlen = s.outlen + 1 := rfl
@[simp] theorem State.putByte_phase (b : Byte) : (s.putByte b).phase = s.phase := rfl
@[simp] theorem State.putByte_bfinal (b : Byte) : (s.putByte b).bfinal = s.bfinal := rfl
@[simp] theorem State.putByte_btype (b : Byte) : (s.putByte b).btype = s.btype := rfl
@[simp] theorem State.putByte_active (b : Byte) : (s.putByte b).active = s.active := rfl
@[simp] theorem State.putByte_hlit (b : Byte) : (s.putByte b).hlit = s.hlit := rfl
@[simp] theorem State.putByte_hdist (b : Byte) : (s.putByte b).hdist = s.hdist := rfl
@[simp] theorem State.putByte_hclen (b : Byte) : (s.putByte b).hclen = s.hclen := rfl
@[simp] theorem State.putByte_cli (b : Byte) : (s.putByte b).cli = s.cli := rfl
@[simp] theorem State.putByte_cllen (b : Byte) : (s.putByte b).cllen = s.cllen := rfl
@[simp] theorem State.putByte_lens (b : Byte) : (s.putByte b).lens = s.lens := rfl
@[simp] theorem State.putByte_num (b : Byte) : (s.putByte b).num = s.num := rfl
@[simp] theorem State.putByte_storedRem (b : Byte) : (s.putByte b).storedRem = s.storedRem := rfl
@[simp] theorem State.putByte_clt (b : Byte) : (s.putByte b).clt = s.clt := rfl
@[simp] theorem State.putByte_dlt (b : Byte) : (s.putByte b).dlt = s.dlt := rfl
@[simp] theorem State.putByte_ddt (b : Byte) : (s.putByte b).ddt = s.ddt := rfl
@[simp] theorem State.putByte_errcode (b : Byte) : (s.putByte b).errcode = s.errcode := rfl
@[simp] theorem State.putByte_trace (b : Byte) : (s.putByte b).trace = s.trace := rfl
@[simp] theorem State.putByte_traceCount (b : Byte) : (s.putByte b).traceCount = s.traceCount := rfl
@[simp] theorem State.putByte_cursor (b : Byte) : (s.putByte b).cursor = s.cursor := rfl
@[simp] theorem State.putByte_srcLen (b : Byte) : (s.putByte b).srcLen = s.srcLen := rfl
@[simp] theorem State.putByte_dstCap (b : Byte) : (s.putByte b).dstCap = s.dstCap := rfl
@[simp] theorem State.putByte_runN (b : Byte) : (s.putByte b).runN = s.runN := rfl
@[simp] theorem State.putByte_runC (b : Byte) : (s.putByte b).runC = s.runC := rfl
@[simp] theorem State.putByte_src (b : Byte) : (s.putByte b).src = s.src := rfl
@[simp] theorem State.putByte_dst (b : Byte) : (s.putByte b).dst = s.dst.write s.outlen.toNat b := rfl
@[simp] theorem State.putByte_matchPart (b : Byte) : (s.putByte b).matchPart = s.matchPart := rfl
@[simp] theorem State.putByte_traceReady (b : Byte) : (s.putByte b).traceReady = s.traceReady := rfl
@[simp] theorem State.putByte_readData (b : Byte) : (s.putByte b).readData = s.readData := rfl
@[simp] theorem State.putByte_host (b : Byte) : (s.putByte b).host = s.host := rfl
@[simp] theorem State.putByte_freeCount (b : Byte) : (s.putByte b).freeCount = s.freeCount := rfl

/-! ### `endBlock` (43_block_body.md R212) -/

@[simp] theorem State.endBlock_p : s.endBlock.p = s.p := rfl
@[simp] theorem State.endBlock_outlen : s.endBlock.outlen = s.outlen := rfl
@[simp] theorem State.endBlock_phase : s.endBlock.phase = if s.bfinal = 1 then .done else .hdrBfinal := rfl
@[simp] theorem State.endBlock_bfinal : s.endBlock.bfinal = s.bfinal := rfl
@[simp] theorem State.endBlock_btype : s.endBlock.btype = s.btype := rfl
@[simp] theorem State.endBlock_active : s.endBlock.active = s.active := rfl
@[simp] theorem State.endBlock_hlit : s.endBlock.hlit = s.hlit := rfl
@[simp] theorem State.endBlock_hdist : s.endBlock.hdist = s.hdist := rfl
@[simp] theorem State.endBlock_hclen : s.endBlock.hclen = s.hclen := rfl
@[simp] theorem State.endBlock_cli : s.endBlock.cli = s.cli := rfl
@[simp] theorem State.endBlock_cllen : s.endBlock.cllen = s.cllen := rfl
@[simp] theorem State.endBlock_lens : s.endBlock.lens = s.lens := rfl
@[simp] theorem State.endBlock_num : s.endBlock.num = s.num := rfl
@[simp] theorem State.endBlock_storedRem : s.endBlock.storedRem = s.storedRem := rfl
@[simp] theorem State.endBlock_clt : s.endBlock.clt = s.clt := rfl
@[simp] theorem State.endBlock_dlt : s.endBlock.dlt = s.dlt := rfl
@[simp] theorem State.endBlock_ddt : s.endBlock.ddt = s.ddt := rfl
@[simp] theorem State.endBlock_errcode : s.endBlock.errcode = s.errcode := rfl
@[simp] theorem State.endBlock_trace : s.endBlock.trace = s.trace := rfl
@[simp] theorem State.endBlock_traceCount : s.endBlock.traceCount = s.traceCount := rfl
@[simp] theorem State.endBlock_cursor : s.endBlock.cursor = s.cursor := rfl
@[simp] theorem State.endBlock_srcLen : s.endBlock.srcLen = s.srcLen := rfl
@[simp] theorem State.endBlock_dstCap : s.endBlock.dstCap = s.dstCap := rfl
@[simp] theorem State.endBlock_runN : s.endBlock.runN = s.runN := rfl
@[simp] theorem State.endBlock_runC : s.endBlock.runC = s.runC := rfl
@[simp] theorem State.endBlock_src : s.endBlock.src = s.src := rfl
@[simp] theorem State.endBlock_dst : s.endBlock.dst = s.dst := rfl
@[simp] theorem State.endBlock_matchPart : s.endBlock.matchPart = s.matchPart := rfl
@[simp] theorem State.endBlock_traceReady : s.endBlock.traceReady = s.traceReady := rfl
@[simp] theorem State.endBlock_readData : s.endBlock.readData = s.readData := rfl
@[simp] theorem State.endBlock_host : s.endBlock.host = s.host := rfl
@[simp] theorem State.endBlock_freeCount : s.endBlock.freeCount = s.freeCount := rfl

/-! ### `closeLens` (42_dynamic_trees.md R192) -/

@[simp] theorem State.closeLens_p : s.closeLens.p = s.p := by unfold State.closeLens; split <;> rfl
@[simp] theorem State.closeLens_outlen : s.closeLens.outlen = s.outlen := by unfold State.closeLens; split <;> rfl
@[simp] theorem State.closeLens_bfinal : s.closeLens.bfinal = s.bfinal := by unfold State.closeLens; split <;> rfl
@[simp] theorem State.closeLens_btype : s.closeLens.btype = s.btype := by unfold State.closeLens; split <;> rfl
@[simp] theorem State.closeLens_hlit : s.closeLens.hlit = s.hlit := by unfold State.closeLens; split <;> rfl
@[simp] theorem State.closeLens_hdist : s.closeLens.hdist = s.hdist := by unfold State.closeLens; split <;> rfl
@[simp] theorem State.closeLens_hclen : s.closeLens.hclen = s.hclen := by unfold State.closeLens; split <;> rfl
@[simp] theorem State.closeLens_cli : s.closeLens.cli = s.cli := by unfold State.closeLens; split <;> rfl
@[simp] theorem State.closeLens_cllen : s.closeLens.cllen = s.cllen := by unfold State.closeLens; split <;> rfl
@[simp] theorem State.closeLens_lens : s.closeLens.lens = s.lens := by unfold State.closeLens; split <;> rfl
@[simp] theorem State.closeLens_num : s.closeLens.num = s.num := by unfold State.closeLens; split <;> rfl
@[simp] theorem State.closeLens_storedRem :
    s.closeLens.storedRem = s.storedRem := by unfold State.closeLens; split <;> rfl
@[simp] theorem State.closeLens_clt : s.closeLens.clt = s.clt := by unfold State.closeLens; split <;> rfl
@[simp] theorem State.closeLens_errcode : s.closeLens.errcode = s.errcode := by unfold State.closeLens; split <;> rfl
@[simp] theorem State.closeLens_trace : s.closeLens.trace = s.trace := by unfold State.closeLens; split <;> rfl
@[simp] theorem State.closeLens_traceCount :
    s.closeLens.traceCount = s.traceCount := by unfold State.closeLens; split <;> rfl
@[simp] theorem State.closeLens_cursor : s.closeLens.cursor = s.cursor := by unfold State.closeLens; split <;> rfl
@[simp] theorem State.closeLens_srcLen : s.closeLens.srcLen = s.srcLen := by unfold State.closeLens; split <;> rfl
@[simp] theorem State.closeLens_dstCap : s.closeLens.dstCap = s.dstCap := by unfold State.closeLens; split <;> rfl
@[simp] theorem State.closeLens_runN : s.closeLens.runN = s.runN := by unfold State.closeLens; split <;> rfl
@[simp] theorem State.closeLens_runC : s.closeLens.runC = s.runC := by unfold State.closeLens; split <;> rfl
@[simp] theorem State.closeLens_src : s.closeLens.src = s.src := by unfold State.closeLens; split <;> rfl
@[simp] theorem State.closeLens_dst : s.closeLens.dst = s.dst := by unfold State.closeLens; split <;> rfl
@[simp] theorem State.closeLens_matchPart :
    s.closeLens.matchPart = s.matchPart := by unfold State.closeLens; split <;> rfl
@[simp] theorem State.closeLens_traceReady :
    s.closeLens.traceReady = s.traceReady := by unfold State.closeLens; split <;> rfl
@[simp] theorem State.closeLens_readData :
    s.closeLens.readData = s.readData := by unfold State.closeLens; split <;> rfl
@[simp] theorem State.closeLens_host : s.closeLens.host = s.host := by unfold State.closeLens; split <;> rfl
@[simp] theorem State.closeLens_freeCount :
    s.closeLens.freeCount = s.freeCount := by unfold State.closeLens; split <;> rfl

/-! ### `closeCllen` (42_dynamic_trees.md R183) -/

@[simp] theorem State.closeCllen_p : s.closeCllen.p = s.p := by unfold State.closeCllen; split <;> rfl
@[simp] theorem State.closeCllen_outlen : s.closeCllen.outlen = s.outlen := by unfold State.closeCllen; split <;> rfl
@[simp] theorem State.closeCllen_bfinal : s.closeCllen.bfinal = s.bfinal := by unfold State.closeCllen; split <;> rfl
@[simp] theorem State.closeCllen_btype : s.closeCllen.btype = s.btype := by unfold State.closeCllen; split <;> rfl
@[simp] theorem State.closeCllen_active : s.closeCllen.active = s.active := by unfold State.closeCllen; split <;> rfl
@[simp] theorem State.closeCllen_hlit : s.closeCllen.hlit = s.hlit := by unfold State.closeCllen; split <;> rfl
@[simp] theorem State.closeCllen_hdist : s.closeCllen.hdist = s.hdist := by unfold State.closeCllen; split <;> rfl
@[simp] theorem State.closeCllen_hclen : s.closeCllen.hclen = s.hclen := by unfold State.closeCllen; split <;> rfl
@[simp] theorem State.closeCllen_cli : s.closeCllen.cli = s.cli := by unfold State.closeCllen; split <;> rfl
@[simp] theorem State.closeCllen_cllen : s.closeCllen.cllen = s.cllen := by unfold State.closeCllen; split <;> rfl
@[simp] theorem State.closeCllen_lens : s.closeCllen.lens = s.lens := by unfold State.closeCllen; split <;> rfl
@[simp] theorem State.closeCllen_storedRem :
    s.closeCllen.storedRem = s.storedRem := by unfold State.closeCllen; split <;> rfl
@[simp] theorem State.closeCllen_dlt : s.closeCllen.dlt = s.dlt := by unfold State.closeCllen; split <;> rfl
@[simp] theorem State.closeCllen_ddt : s.closeCllen.ddt = s.ddt := by unfold State.closeCllen; split <;> rfl
@[simp] theorem State.closeCllen_errcode :
    s.closeCllen.errcode = s.errcode := by unfold State.closeCllen; split <;> rfl
@[simp] theorem State.closeCllen_trace : s.closeCllen.trace = s.trace := by unfold State.closeCllen; split <;> rfl
@[simp] theorem State.closeCllen_traceCount :
    s.closeCllen.traceCount = s.traceCount := by unfold State.closeCllen; split <;> rfl
@[simp] theorem State.closeCllen_cursor : s.closeCllen.cursor = s.cursor := by unfold State.closeCllen; split <;> rfl
@[simp] theorem State.closeCllen_srcLen : s.closeCllen.srcLen = s.srcLen := by unfold State.closeCllen; split <;> rfl
@[simp] theorem State.closeCllen_dstCap : s.closeCllen.dstCap = s.dstCap := by unfold State.closeCllen; split <;> rfl
@[simp] theorem State.closeCllen_runN : s.closeCllen.runN = s.runN := by unfold State.closeCllen; split <;> rfl
@[simp] theorem State.closeCllen_runC : s.closeCllen.runC = s.runC := by unfold State.closeCllen; split <;> rfl
@[simp] theorem State.closeCllen_src : s.closeCllen.src = s.src := by unfold State.closeCllen; split <;> rfl
@[simp] theorem State.closeCllen_dst : s.closeCllen.dst = s.dst := by unfold State.closeCllen; split <;> rfl
@[simp] theorem State.closeCllen_matchPart :
    s.closeCllen.matchPart = s.matchPart := by unfold State.closeCllen; split <;> rfl
@[simp] theorem State.closeCllen_traceReady :
    s.closeCllen.traceReady = s.traceReady := by unfold State.closeCllen; split <;> rfl
@[simp] theorem State.closeCllen_readData :
    s.closeCllen.readData = s.readData := by unfold State.closeCllen; split <;> rfl
@[simp] theorem State.closeCllen_host : s.closeCllen.host = s.host := by unfold State.closeCllen; split <;> rfl
@[simp] theorem State.closeCllen_freeCount :
    s.closeCllen.freeCount = s.freeCount := by unfold State.closeCllen; split <;> rfl

/-! ### `start` (46_host_interface.md R303) -/

@[simp] theorem State.start_p : s.start.p = 0 := rfl
@[simp] theorem State.start_outlen : s.start.outlen = 0 := rfl
@[simp] theorem State.start_phase : s.start.phase = .hdrBfinal := rfl
@[simp] theorem State.start_bfinal : s.start.bfinal = 0 := rfl
@[simp] theorem State.start_btype : s.start.btype = 0 := rfl
@[simp] theorem State.start_active : s.start.active = 0 := rfl
@[simp] theorem State.start_hlit : s.start.hlit = s.hlit := rfl
@[simp] theorem State.start_hdist : s.start.hdist = s.hdist := rfl
@[simp] theorem State.start_hclen : s.start.hclen = s.hclen := rfl
@[simp] theorem State.start_cli : s.start.cli = s.cli := rfl
@[simp] theorem State.start_cllen : s.start.cllen = s.cllen := rfl
@[simp] theorem State.start_lens : s.start.lens = s.lens := rfl
@[simp] theorem State.start_num : s.start.num = s.num := rfl
@[simp] theorem State.start_storedRem : s.start.storedRem = s.storedRem := rfl
@[simp] theorem State.start_clt : s.start.clt = s.clt := rfl
@[simp] theorem State.start_dlt : s.start.dlt = s.dlt := rfl
@[simp] theorem State.start_ddt : s.start.ddt = s.ddt := rfl
@[simp] theorem State.start_errcode : s.start.errcode = .none := rfl
@[simp] theorem State.start_trace : s.start.trace = [] := rfl
@[simp] theorem State.start_traceCount : s.start.traceCount = 0 := rfl
@[simp] theorem State.start_cursor : s.start.cursor = { srcIdx := 0, bitBuf := 0, bitCnt := 0 } := rfl
@[simp] theorem State.start_srcLen : s.start.srcLen = s.srcLen := rfl
@[simp] theorem State.start_dstCap : s.start.dstCap = s.dstCap := rfl
@[simp] theorem State.start_runN : s.start.runN = s.srcLen := rfl
@[simp] theorem State.start_runC : s.start.runC = s.dstCap := rfl
@[simp] theorem State.start_src : s.start.src = s.src := rfl
@[simp] theorem State.start_dst : s.start.dst = s.dst := rfl
@[simp] theorem State.start_matchPart : s.start.matchPart = s.matchPart := rfl
@[simp] theorem State.start_traceReady : s.start.traceReady = s.traceReady := rfl
@[simp] theorem State.start_readData : s.start.readData = s.readData := rfl
@[simp] theorem State.start_host : s.start.host = s.host := rfl
@[simp] theorem State.start_freeCount : s.start.freeCount = s.freeCount := rfl

end Sys2Proof.Machine
end

