-- ==== Sys2Proof/Laws/Ops.lean ====
section
/-! SUPPORT. What each shared operation can do, said once. -/

namespace Sys2Proof.Machine

/-- A read of stream fields goes on where the bits are there, and raises TruncatedStream where they are not. -/
theorem reading_pos {ws : List Nat} {e : Word} {s : State} {k : State → Res} (h : s.hasBits ws.sum) :
    reading ws e s k = k (s.advance ws) := if_pos h

theorem reading_neg {ws : List Nat} {e : Word} {s : State} {k : State → Res} (h : ¬ s.hasBits ws.sum) :
    reading ws e s k = .next (s.raise .truncatedStream e) := if_neg h

/-- Where a field read answers, one of two things happened. -/
theorem reading_cases (ws : List Nat) (e : Word) (s : State) (k : State → Res) :
    (¬ s.hasBits ws.sum ∧ reading ws e s k = .next (s.raise .truncatedStream e)) ∨
    (s.hasBits ws.sum ∧ reading ws e s k = k (s.advance ws)) := by
  by_cases h : s.hasBits ws.sum
  · exact .inr ⟨h, reading_pos h⟩
  · exact .inl ⟨h, reading_neg h⟩

/-- Raising after bits were consumed is raising before: P goes back and the buffered reader is unspecified
(60_exceptions.md R336). -/
@[simp] theorem raise_advance (s : State) (ws : List Nat) (err : ErrCode) (e : Word) :
    (s.advance ws).raise err e = s.raise err e := rfl

/-- A repeat of code lengths ends in one of two ways (42_dynamic_trees.md R190). -/
theorem repeatLens_cases (v : BitVec 4) (cnt rs width : Nat) (e : Word) (s : State) :
    (s.totalLens < s.num.toNat + cnt ∧ repeatLens v cnt rs width e s = .next (s.raise .invalidStream e)) ∨
    (s.num.toNat + cnt ≤ s.totalLens ∧ repeatLens v cnt rs width e s = .next
      (({ s with lens := fillLens v cnt s.num.toNat s.lens, num := s.num + BitVec.ofNat 9 cnt } : State).emit
        (.repeatCodeLength s.lensCategory (BitVec.ofNat 5 rs) (BitVec.ofNat 8 cnt) v
          (affectedSymbols s.num.toNat cnt) (spanAt e width))).closeLens) := by
  by_cases h : s.totalLens < s.num.toNat + cnt
  · exact .inl ⟨h, if_pos h⟩
  · exact .inr ⟨by omega, if_neg h⟩

/-- Which entries a fill writes. -/
theorem fillLens_getElem? (v : BitVec 4) (cnt : Nat) : ∀ (at_ : Nat) (lens : Vector (BitVec 4) 318) (i : Nat),
    (fillLens v cnt at_ lens)[i]? = if at_ ≤ i ∧ i < at_ + cnt ∧ i < 318 then some v else lens[i]? := by
  induction cnt with
  | zero => intro at_ lens i; simp [fillLens]; omega
  | succ cnt ih =>
    intro at_ lens i
    simp only [fillLens, ih, Vector.getElem?_setIfInBounds]
    by_cases h1 : at_ = i
    · subst h1
      by_cases h2 : at_ < 318 <;> simp [h2, show ¬ at_ + 1 ≤ at_ by omega]
    · by_cases h2 : at_ + 1 ≤ i ∧ i < at_ + 1 + cnt ∧ i < 318
      · rw [if_pos h2, if_pos (by omega)]
      · rw [if_neg h2, if_neg h1, if_neg (by omega)]

/-- What the byte-serial copy leaves (43_block_body.md R219, R220), from an OUTLEN within the capacity: OUTLEN grows by
the bytes produced and stays within it; the bytes produced stand in DST one after another; no other byte changes; the
canonical form is kept; and the copy is complete exactly when it produced all its bytes, and otherwise stopped at the
capacity. -/
structure CopySpec (cap : Word) (length : Nat) (m : Memory) (o : Word) (acc : List Byte) (r : CopyResult) :
    Prop where
  produced : ∃ new, r.produced = acc ++ new ∧ r.outlen.toNat = o.toNat + new.length ∧
    new.length ≤ length ∧ (∀ i, (h : i < new.length) → r.dst.read (o.toNat + i) = new[i]) ∧
    (r.complete = true ↔ new.length = length)
  within : r.outlen.toNat ≤ cap.toNat
  full : r.complete = false → r.outlen = cap
  frame : ∀ i, i < o.toNat ∨ r.outlen.toNat ≤ i → r.dst.read i = m.read i
  wf : r.dst.wf

theorem copyLoop_spec (cap : Word) (dist length : Nat) : ∀ (m : Memory) (o : Word) (acc : List Byte),
    m.wf → o.toNat ≤ cap.toNat → CopySpec cap length m o acc (copyLoop cap dist length m o acc) := by
  induction length with
  | zero =>
    intro m o acc hm ho
    exact ⟨⟨[], by simp [copyLoop], by simp [copyLoop], by simp, by simp, by simp [copyLoop]⟩,
      by simpa [copyLoop] using ho, by simp [copyLoop], fun i _ => rfl, hm⟩
  | succ k ih =>
    intro m o acc hm ho
    simp only [copyLoop]
    by_cases hcap : o = cap
    · rw [if_pos hcap]
      exact ⟨⟨[], by simp, by simp, by simp, by simp, by simp⟩, ho, fun _ => hcap, fun i _ => rfl, hm⟩
    · rw [if_neg hcap]
      have hlt : o.toNat < cap.toNat := by
        rcases Nat.lt_or_eq_of_le ho with h | h
        · exact h
        · exact absurd (BitVec.eq_of_toNat_eq h) hcap
      have hc := cap.isLt
      have ho1 : (o + 1).toNat = o.toNat + 1 := by
        rw [BitVec.toNat_add, show (1 : Word).toNat = 1 from rfl]
        omega
      generalize hb : m.read (o.toNat - dist) = b
      have ih' := ih (m.write o.toNat b) (o + 1) (acc ++ [b]) (Memory.write_wf _ _ _ hm) (by omega)
      generalize copyLoop cap dist k (m.write o.toNat b) (o + 1) (acc ++ [b]) = r at ih'
      obtain ⟨new, hp, ho', hle, hbytes, hcompl⟩ := ih'.produced
      rw [ho1] at ho'
      refine ⟨⟨b :: new, by simp [hp], by simp [ho']; omega, by simp; omega, fun i hi => ?_, by simp [hcompl]⟩,
        ih'.within, ih'.full, fun i hi => ?_, ih'.wf⟩
      · cases i with
        | zero =>
          rw [Nat.add_zero, ih'.frame _ (.inl (by omega)), Memory.read_write_same _ _ _ hm]
          rfl
        | succ i =>
          have := hbytes i (by simpa using hi)
          rw [ho1] at this
          simpa [Nat.add_assoc, Nat.add_comm 1 i] using this
      · rw [ih'.frame i (by omega), Memory.read_write_other _ _ _ _ (by omega)]

end Sys2Proof.Machine
end

