-- ==== Sys2Proof/Laws/Exec.lean ====
section
/-! SUPPORT. The meanings of the length and distance elements through one view each, and how a step runs what it
decodes. -/

namespace Sys2Proof.Machine

/-- Every length element runs the one length part, with a symbol of 257 to 285 and an extra-bits value its row allows. -/
theorem exec_of_asLength {i : Instr} {sym n lext : Nat} (h : i.asLength = some (sym, n, lext)) (s : State) :
    exec i s = lengthPart sym n lext s ∧ 257 ≤ sym ∧ sym ≤ 285 ∧ lext < 2 ^ lbits (sym - 257) ∧
      (∀ align, i.width align = n + lbits (sym - 257)) := by
  cases i <;> simp only [Instr.asLength, Option.some.injEq, Prod.mk.injEq, reduceCtorEq] at h
  all_goals
    obtain ⟨rfl, rfl, rfl⟩ := h
    refine ⟨rfl, by decide, by decide, ?_, fun _ => rfl⟩
    first
      | exact Nat.lt_of_lt_of_eq (BitVec.isLt _) rfl
      | decide

/-- Every distance element runs the one distance part, with a symbol of 0 to 29 and an extra-bits value its row
allows. -/
theorem exec_of_asDistance {i : Instr} {d n dext : Nat} (h : i.asDistance = some (d, n, dext)) (s : State) :
    exec i s = distancePart d n dext s ∧ d ≤ 29 ∧ dext < 2 ^ dbits d ∧
      (∀ align, i.width align = n + dbits d) := by
  cases i <;> simp only [Instr.asDistance, Option.some.injEq, Prod.mk.injEq, reduceCtorEq] at h
  all_goals
    obtain ⟨rfl, rfl, rfl⟩ := h
    refine ⟨rfl, by decide, ?_, fun _ => rfl⟩
    first
      | exact Nat.lt_of_lt_of_eq (BitVec.isLt _) rfl
      | decide

/-- An LLSYM element is a literal, an end of block, a reserved symbol or a length element. -/
theorem llsym_cases {i : Instr} (h : i.format = .llsym) :
    (∃ n byte, i = .lit n byte) ∨ (∃ n, i = .eob n) ∨
      (∃ n, i = .litlenReserved286 n ∨ i = .litlenReserved287 n) ∨ ∃ sym n lext, i.asLength = some (sym, n, lext) := by
  cases i <;> simp only [Instr.format, reduceCtorEq] at h <;> simp [Instr.asLength]

/-- A DSYM element is a reserved symbol or a distance element. -/
theorem dsym_cases {i : Instr} (h : i.format = .dsym) :
    (∃ n, i = .distReserved30 n ∨ i = .distReserved31 n) ∨ ∃ d n dext, i.asDistance = some (d, n, dext) := by
  cases i <;> simp only [Instr.format, reduceCtorEq] at h <;> simp [Instr.asDistance]

/-- A CLSYM element is one of four. -/
theorem clsym_cases {i : Instr} (h : i.format = .clsym) :
    (∃ n len, i = .clLen n len) ∨ (∃ n rep, i = .clRepPrev n rep) ∨ (∃ n rep, i = .clZeroShort n rep) ∨
      ∃ n rep, i = .clZeroLong n rep := by
  cases i <;> simp only [Instr.format, reduceCtorEq] at h <;> simp

/-- An element whose bits were fetched has them: `P + width ≤ 8·N` (40_bitcursor.md R127). -/
theorem hasBits_of_decode {f : Format} {s : State} {i : Instr} {rest : List Bool} (hp : s.p.toNat ≤ 8 * s.runN.toNat)
    (h : decode f s.decodeCtx s.fetchBits = .ok (i, rest)) : s.hasBits (i.width (s.p.toNat % 8)) := by
  obtain ⟨_, used, hb, hlen, _⟩ := decode_ok h
  have hl : s.fetchBits.length = used.length + rest.length := by rw [hb, List.length_append]
  simp only [State.fetchBits, length_streamBits] at hl
  simp only [State.decodeCtx, Nat.zero_add] at hlen
  simp only [State.hasBits]
  omega

end Sys2Proof.Machine
end

