-- ==== Sys2Proof/Laws/Step.lean ====
section
/-! SUPPORT. What a step can do, said once: the host's act or the engine step, the trace port's gate, and the element
step with its second half. -/

namespace Sys2Proof.Machine

theorem step_engine {s : State} (h : s.host = []) : step s = engineStep s := by unfold step; rw [h]

theorem step_host {s : State} {a : HostAct} {rest : List HostAct} (h : s.host = a :: rest) :
    step s = perform a { s with host := rest } := by unfold step; rw [h]

/-- While the trace port's consumer is ready, the gate lets every step through. -/
theorem gate_ready {s : State} (h : s.traceReady = true) (r : Res) : s.gate r = r := by
  unfold State.gate
  cases r <;> simp [h]

/-- What the gate lets through, or holds back. -/
theorem gate_next {s t : State} {r : Res} (h : s.gate r = .next t) :
    r = .next t ∨ (t = s ∧ s.traceReady = false ∧ ∃ u, r = .next u ∧ u.trace.length ≠ s.trace.length) := by
  unfold State.gate at h
  cases r with
  | next u =>
    by_cases hc : s.traceReady = false ∧ u.trace.length ≠ s.trace.length
    · simp only [if_pos hc, Host.Outcome.next.injEq] at h
      exact .inr ⟨h.symm, hc.1, u, rfl, hc.2⟩
    · simp only [if_neg hc] at h
      exact .inl h
  | fault e => exact .inl h
  | refused e => exact .inl h

theorem step_undisturbed {s : State} (h : s.Undisturbed) : step s = elementStep s := by
  rw [step_engine h.1, engineStep, gate_ready h.2]

theorem elementStep_none {s : State} (h : s.elementFormat = none) : elementStep s = .next s := by
  simp [elementStep, h]

theorem elementStep_some {s : State} {f : Format} (h : s.elementFormat = some f) :
    elementStep s = continueMatch f (runElement f s) := by
  simp [elementStep, h]

theorem runElement_ok {f : Format} {s : State} {i : Instr} {rest : List Bool}
    (h : decode f s.decodeCtx s.fetchBits = .ok (i, rest)) : runElement f s = exec i s := by
  simp [runElement, h]

theorem runElement_error {f : Format} {s : State} {err : DecodeError}
    (h : decode f s.decodeCtx s.fetchBits = .error err) :
    runElement f s = raiseDecode err (s.startFor f) s := by
  simp [runElement, h]

/-- The second half of a step is taken after a length part alone. -/
theorem continueMatch_other {f : Format} {r : Res} (h : ∀ t, r = .next t → f = .llsym → t.matchPart = none) :
    continueMatch f r = r := by
  cases r with
  | next t =>
    have hc : ¬ (f = .llsym ∧ t.matchPart.isSome = true) := fun hc => by simp [h t rfl hc.1] at hc
    simp only [continueMatch, if_neg hc]
  | fault e => rfl
  | refused e => rfl

theorem continueMatch_length {t : State} {q : MatchPart} (h : t.matchPart = some q) :
    continueMatch .llsym (.next t) = runElement .dsym t := by
  simp [continueMatch, h]

/-- Everything one element step can do when it answers a next state: nothing, in a quiet phase; one element; or a length
part and then a distance part. Each element is run as decoded, or its decode raises. -/
theorem elementStep_cases {s t : State} (h : elementStep s = .next t) :
    (s.elementFormat = none ∧ t = s) ∨
    (∃ f, s.elementFormat = some f ∧ runElement f s = .next t ∧ ¬ (f = .llsym ∧ t.matchPart.isSome = true)) ∨
    (∃ u q, s.elementFormat = some .llsym ∧ runElement .llsym s = .next u ∧ u.matchPart = some q ∧
      runElement .dsym u = .next t) := by
  unfold elementStep at h
  split at h
  · rename_i hf
    exact .inl ⟨hf, (Host.Outcome.next.inj h).symm⟩
  · rename_i f hf
    unfold continueMatch at h
    split at h
    · rename_i u hr
      split at h
      · rename_i hc
        obtain ⟨q, hq⟩ := Option.isSome_iff_exists.mp hc.2
        exact .inr (.inr ⟨u, q, by rw [hf, hc.1], by rw [← hc.1]; exact hr, hq, h⟩)
      · rename_i hc
        obtain rfl := Host.Outcome.next.inj h
        exact .inr (.inl ⟨f, hf, hr, hc⟩)
    · rename_i hr
      exact absurd h (hr t)

/-- The two ways the end of a code-length step goes (42_dynamic_trees.md R185, R192). -/
theorem closeLens_cases (s : State) :
    (s.num.toNat = s.totalLens ∧ s.closeLens =
      { s with dlt := s.dlt.store (build s.litLens), ddt := s.ddt.store (build s.distLens), active := 1, phase := .body }) ∨
    (s.num.toNat ≠ s.totalLens ∧ s.closeLens = s) := by
  unfold State.closeLens
  by_cases h : s.num.toNat = s.totalLens
  · exact .inl ⟨h, if_pos h⟩
  · exact .inr ⟨h, if_neg h⟩

/-- The two ways a CLLEN step ends (42_dynamic_trees.md R183). -/
theorem closeCllen_cases (s : State) :
    (s.cli = s.hclen ∧ s.closeCllen =
      { s with clt := s.clt.store (build (s.cllen.toList.map BitVec.toNat)), num := 0, phase := .dynLens }) ∨
    (s.cli ≠ s.hclen ∧ s.closeCllen = s) := by
  unfold State.closeCllen
  by_cases h : s.cli = s.hclen
  · exact .inl ⟨h, if_pos h⟩
  · exact .inr ⟨h, if_neg h⟩

/-- Consuming fields that are there moves P by their width, with no wrap (10_state.md R22). -/
theorem advance_toNat {s : State} {ws : List Nat} (hn : s.runN.toNat < 2 ^ 29) (h : s.hasBits ws.sum) :
    (s.advance ws).p.toNat = s.p.toNat + ws.sum := by
  simp only [State.hasBits] at h
  simp only [State.advance_p, BitVec.toNat_add, BitVec.toNat_ofNat]
  omega

/-- A byte written below the capacity keeps `OUTLEN ≤ C` (10_state.md R23). -/
theorem putByte_outlen_toNat {s : State} (b : Byte) (h : s.outlen.toNat ≤ s.runC.toNat) (hne : s.outlen ≠ s.runC) :
    (s.putByte b).outlen.toNat = s.outlen.toNat + 1 ∧ s.outlen.toNat < s.runC.toNat := by
  have hlt : s.outlen.toNat < s.runC.toNat := Nat.lt_of_le_of_ne h fun e => hne (BitVec.eq_of_toNat_eq e)
  refine ⟨?_, hlt⟩
  have := s.runC.isLt
  simp only [State.putByte_outlen, BitVec.toNat_add, show (1 : Word).toNat = 1 from rfl]
  omega

/-- The ways a host access to a buffer goes: outside the window, while BUSY, to a byte the buffer has, or beyond it. -/
theorem hostBuffer_cases (window : Option Word) (size : Nat) (place : HostPlace) (s : State) (k : Nat → Res) :
    (place.resolve window size = none ∧ hostBuffer window size place s k = .next s) ∨
    ∃ i, place.resolve window size = some i ∧
      ((s.busy = true ∧ hostBuffer window size place s k = .refused .hostAccessWhileBusy) ∨
       (s.busy = false ∧ i < size ∧ hostBuffer window size place s k = k i) ∨
       (s.busy = false ∧ size ≤ i ∧ hostBuffer window size place s k = .fault .noSuchByte)) := by
  unfold hostBuffer unlessBusy
  cases place.resolve window size with
  | none => exact .inl ⟨rfl, rfl⟩
  | some i =>
    refine .inr ⟨i, rfl, ?_⟩
    cases s.busy with
    | true => exact .inl ⟨rfl, if_pos rfl⟩
    | false =>
      by_cases h : i < size
      · exact .inr (.inl ⟨rfl, h, by simp [h]⟩)
      · exact .inr (.inr ⟨rfl, Nat.le_of_not_lt h, by simp [h]⟩)

/-- A host address in the register block has its offset back. -/
@[simp] theorem regOffset_add (offset : Word) : regOffset (Config.csrBase + offset) = offset.toNat := by
  rw [regOffset, BitVec.add_comm, BitVec.add_sub_cancel]

@[simp] theorem regOffset_base : regOffset Config.csrBase = 0 := by simp [regOffset]

end Sys2Proof.Machine
end

