-- ==== Sys2Proof/Laws/Engine.lean ====
section
/-! SUPPORT. What the outside will do next is nothing to the engine: an engine step does not read the host list and keeps
it, so the statements about a state with an empty list hold of the act `engine` too. -/

namespace Sys2Proof.Machine

/-- The state with another host list. -/
def State.withHost (s : State) (h : List HostAct) : State := { s with host := h }

/-- The outcome with another host list. -/
def resWithHost (h : List HostAct) : Res → Res
  | .next t => .next (t.withHost h)
  | .fault e => .fault e
  | .refused e => .refused e

theorem reading_withHost {ws : List Nat} {e : Word} {s : State} {h : List HostAct} {k k' : State → Res}
    (hk : k' ((s.advance ws).withHost h) = resWithHost h (k (s.advance ws))) :
    reading ws e (s.withHost h) k' = resWithHost h (reading ws e s k) := by
  by_cases hb : s.hasBits ws.sum
  · rw [reading_pos hb, reading_pos (show (s.withHost h).hasBits ws.sum from hb)]
    exact hk
  · rw [reading_neg hb, reading_neg (show ¬ (s.withHost h).hasBits ws.sum from hb)]
    rfl

/-- A choice whose condition is the same for both commutes. -/
theorem ite_withHost {c : Prop} [Decidable c] {h : List HostAct} {a b a' b' : Res} (ha : a' = resWithHost h a)
    (hb : b' = resWithHost h b) : (if c then a' else b') = resWithHost h (if c then a else b) := by
  split
  · exact ha
  · exact hb

theorem closeLens_withHost {s t : State} {h : List HostAct} (ht : t = s.withHost h) :
    Host.Outcome.next t.closeLens = resWithHost h (.next s.closeLens) := by
  subst ht
  refine congrArg Host.Outcome.next ?_
  rcases closeLens_cases s with ⟨hc, e⟩ | ⟨hc, e⟩
  · rw [e]; exact if_pos hc
  · rw [e]; exact if_neg hc

theorem closeCllen_withHost {s t : State} {h : List HostAct} (ht : t = s.withHost h) :
    Host.Outcome.next t.closeCllen = resWithHost h (.next s.closeCllen) := by
  subst ht
  refine congrArg Host.Outcome.next ?_
  rcases closeCllen_cases s with ⟨hc, e⟩ | ⟨hc, e⟩
  · rw [e]; exact if_pos hc
  · rw [e]; exact if_neg hc

theorem repeatLens_withHost (v : BitVec 4) (cnt rs width : Nat) (e : Word) (s : State) (h : List HostAct) :
    repeatLens v cnt rs width e (s.withHost h) = resWithHost h (repeatLens v cnt rs width e s) :=
  ite_withHost rfl (closeLens_withHost rfl)

theorem lengthPart_withHost (sym n lext : Nat) (s : State) (h : List HostAct) :
    lengthPart sym n lext (s.withHost h) = resWithHost h (lengthPart sym n lext s) :=
  reading_withHost rfl

theorem distancePart_withHost (d n dext : Nat) (s : State) (h : List HostAct) :
    distancePart d n dext (s.withHost h) = resWithHost h (distancePart d n dext s) := by
  unfold distancePart
  rw [show (s.withHost h).matchPart = s.matchPart from rfl]
  split
  · rfl
  · exact reading_withHost (ite_withHost rfl (ite_withHost rfl rfl))

theorem reservedDistance_withHost (n : Nat) (s : State) (h : List HostAct) :
    reservedDistance n (s.withHost h) = resWithHost h (reservedDistance n s) := by
  unfold reservedDistance
  rw [show (s.withHost h).matchPart = s.matchPart from rfl]
  split
  · rfl
  · exact reading_withHost rfl

/-- No instruction reads or writes the host list. -/
theorem exec_withHost (i : Instr) (s : State) (h : List HostAct) :
    exec i (s.withHost h) = resWithHost h (exec i s) := by
  cases i <;>
    simp only [exec, execBfinal, execBtypeStored, execBtypeFixed, execBtypeDynamic, execBtypeReserved, blockType,
      execStoredHdr, execStoredByte, execHlit, execHlitReserved, execHdist, execHclen, execCllen, execClLen,
      execClRepPrev, execClZeroShort, execClZeroLong, execLit, execEob, execLitlenReserved286, execLitlenReserved287,
      reservedSymbol]
  case bfinal => exact reading_withHost rfl
  case btypeStored => exact reading_withHost rfl
  case btypeFixed => exact reading_withHost rfl
  case btypeDynamic => exact reading_withHost rfl
  case btypeReserved => exact reading_withHost rfl
  case storedHdr => exact ite_withHost rfl (ite_withHost rfl rfl)
  case storedByte => exact reading_withHost (ite_withHost rfl rfl)
  case storedEnd => rfl
  case hlit => exact reading_withHost rfl
  case hlitReserved => exact reading_withHost rfl
  case hdist => exact reading_withHost rfl
  case hclen => exact reading_withHost rfl
  case cllen => exact reading_withHost (closeCllen_withHost rfl)
  case clLen => exact reading_withHost (closeLens_withHost rfl)
  case clRepPrev => exact reading_withHost (ite_withHost rfl (reading_withHost (repeatLens_withHost _ _ _ _ _ _ h)))
  case clZeroShort => exact reading_withHost (repeatLens_withHost _ _ _ _ _ _ h)
  case clZeroLong => exact reading_withHost (repeatLens_withHost _ _ _ _ _ _ h)
  case lit => exact reading_withHost (ite_withHost rfl rfl)
  case eob => exact reading_withHost rfl
  case litlenReserved286 => exact reading_withHost rfl
  case litlenReserved287 => exact reading_withHost rfl
  case distReserved30 => exact reservedDistance_withHost _ s h
  case distReserved31 => exact reservedDistance_withHost _ s h
  all_goals first
    | exact lengthPart_withHost _ _ _ s h
    | exact distancePart_withHost _ _ _ s h

theorem runElement_withHost (f : Format) (s : State) (h : List HostAct) :
    runElement f (s.withHost h) = resWithHost h (runElement f s) := by
  unfold runElement
  rw [show (s.withHost h).decodeCtx = s.decodeCtx from rfl, show (s.withHost h).fetchBits = s.fetchBits from rfl,
    show (s.withHost h).startFor f = s.startFor f by cases f <;> rfl]
  split
  · exact exec_withHost _ s h
  · rename_i err _
    cases err <;> rfl

theorem elementStep_withHost (s : State) (h : List HostAct) :
    elementStep (s.withHost h) = resWithHost h (elementStep s) := by
  unfold elementStep
  rw [show (s.withHost h).elementFormat = s.elementFormat from rfl]
  split
  · rfl
  · rename_i f _
    rw [runElement_withHost]
    cases runElement f s with
    | next t => exact ite_withHost (runElement_withHost _ t h) rfl
    | fault e => rfl
    | refused e => rfl

/-- An engine step does not read the host list, and keeps it. -/
theorem engineStep_withHost (s : State) (h : List HostAct) :
    engineStep (s.withHost h) = resWithHost h (engineStep s) := by
  unfold engineStep
  rw [elementStep_withHost]
  cases elementStep s with
  | next t => exact ite_withHost rfl rfl
  | fault e => rfl
  | refused e => rfl

end Sys2Proof.Machine
end

