-- ==== Sys2Proof/Tests/Slice0.lean ====
section
/-! SUPPORT. The model's own tests. Expected values come from the spec: the words are written out from the formats of
30_encoding.md R82 and the codes of 41_huffman.md R163, the steps are the worked examples of the rules and of
95_test_vectors.md (named in each comment). After them stands a witness for the hypotheses of every statement. -/

namespace Sys2Proof.Tests

/-! The kernel checks the tests one after another. -/
set_option Elab.async false

open Sys2Proof.Machine

/-- Stream bits written as 0s and 1s, in stream order. -/
def bits (l : List Nat) : List Bool := l.map (· == 1)

/-- Something of the next state, where there is one. -/
def after {α : Type} (r : Res) (f : State → α) : Option α :=
  match r with
  | .next t => some (f t)
  | .fault _ => none
  | .refused _ => none

/-- The next state, where there is one. -/
def nextOf (r : Res) (d : State) : State :=
  match r with
  | .next t => t
  | .fault _ => d
  | .refused _ => d

/-- A decode gives exactly this. -/
def okIs {ε α : Type} [DecidableEq α] (r : Except ε α) (a : α) : Bool :=
  match r with
  | .ok x => decide (x = a)
  | .error _ => false

/-- A decode fails exactly so. -/
def errIs {ε α : Type} [DecidableEq ε] (r : Except ε α) (e : ε) : Bool :=
  match r with
  | .ok _ => false
  | .error x => decide (x = e)

theorem eq_of_okIs {ε α : Type} [DecidableEq α] {r : Except ε α} {a : α} (h : okIs r a = true) : r = .ok a := by
  cases r with
  | ok x => rw [of_decide_eq_true h]
  | error x => cases h

theorem eq_of_errIs {ε α : Type} [DecidableEq ε] {r : Except ε α} {e : ε} (h : errIs r e = true) : r = .error e := by
  cases r with
  | ok x => cases h
  | error x => rw [of_decide_eq_true h]

def isNext (r : Res) : Bool :=
  match r with
  | .next _ => true
  | .fault _ => false
  | .refused _ => false

theorem eq_nextOf {r : Res} (d : State) (h : isNext r = true) : r = .next (nextOf r d) := by
  cases r with
  | next t => rfl
  | fault e => cases h
  | refused e => cases h

/-! ## Well-formedness: an ill-formed term for each check, which the check refuses -/

/-- Every element with a code, its code `n` bits long. -/
def codeElements (n : Nat) : List Instr :=
  List.flatten [
    [.clLen n 0, .clRepPrev n 0, .clZeroShort n 0, .clZeroLong n 0, .lit n 0],
    [.eob n, .len257 n, .len258 n, .len259 n, .len260 n],
    [.len261 n, .len262 n, .len263 n, .len264 n, .len265 n 0],
    [.len266 n 0, .len267 n 0, .len268 n 0, .len269 n 0, .len270 n 0],
    [.len271 n 0, .len272 n 0, .len273 n 0, .len274 n 0, .len275 n 0],
    [.len276 n 0, .len277 n 0, .len278 n 0, .len279 n 0, .len280 n 0],
    [.len281 n 0, .len282 n 0, .len283 n 0, .len284 n 0, .len285 n],
    [.litlenReserved286 n, .litlenReserved287 n, .dist0 n, .dist1 n, .dist2 n],
    [.dist3 n, .dist4 n 0, .dist5 n 0, .dist6 n 0, .dist7 n 0],
    [.dist8 n 0, .dist9 n 0, .dist10 n 0, .dist11 n 0, .dist12 n 0],
    [.dist13 n 0, .dist14 n 0, .dist15 n 0, .dist16 n 0, .dist17 n 0],
    [.dist18 n 0, .dist19 n 0, .dist20 n 0, .dist21 n 0, .dist22 n 0],
    [.dist23 n 0, .dist24 n 0, .dist25 n 0, .dist26 n 0, .dist27 n 0],
    [.dist28 n 0, .dist29 n 0, .distReserved30 n, .distReserved31 n]]

theorem test_wf_no_code_of_zero_bits : ((codeElements 0).all fun i => !i.wellFormed) = true := by decide +kernel

theorem test_wf_no_code_of_sixteen_bits : ((codeElements 16).all fun i => !i.wellFormed) = true := by decide +kernel

theorem test_wf_code_of_fifteen_bits : ((codeElements 15).all Instr.wellFormed) = true := by decide +kernel

theorem test_wf_hlit_thirty_is_reserved : (Instr.hlit 30).wellFormed = false ∧ (Instr.hlit 31).wellFormed = false ∧
    (Instr.hlit 29).wellFormed = true := by decide

/-! ## Decoding: every element, from bits written out from the spec -/

/-- Header, stored, literal and reserved elements (R82, R88; fixed codes of R163). -/
def fieldAndSymbolWords : List (Format × List Bool × Instr) :=
  List.flatten [
    [(.f1, bits [1], .bfinal 1), (.f1, bits [0], .bfinal 0)],
    [(.f2, bits [0, 0], .btypeStored), (.f2, bits [1, 0], .btypeFixed)],
    [(.f2, bits [0, 1], .btypeDynamic), (.f2, bits [1, 1], .btypeReserved)],
    [(.b8, bits [1, 0, 0, 0, 0, 0, 1, 0], .storedByte 0x41), (.z0, bits [], .storedEnd)],
    [(.f5h, bits [1, 0, 0, 0, 0], .hlit 1), (.f5h, bits [1, 0, 1, 1, 1], .hlit 29)],
    [(.f5h, bits [0, 1, 1, 1, 1], .hlitReserved 0), (.f5h, bits [1, 1, 1, 1, 1], .hlitReserved 1)],
    [(.f5d, bits [0, 1, 0, 0, 1], .hdist 18), (.f4, bits [0, 1, 1, 1], .hclen 14)],
    [(.f3, bits [1, 0, 0], .cllen 1), (.f3, bits [0, 0, 1], .cllen 4)],
    [(.llsym, bits [0, 0, 1, 1, 0, 0, 0, 0], .lit 8 0), (.llsym, bits [1, 0, 0, 1, 0, 0, 0, 1], .lit 8 97)],
    [(.llsym, bits [1, 0, 1, 1, 1, 1, 1, 1], .lit 8 143), (.llsym, bits [1, 1, 0, 0, 1, 0, 0, 0, 0], .lit 9 144)],
    [(.llsym, bits [1, 1, 1, 1, 1, 1, 1, 1, 1], .lit 9 255), (.llsym, bits [0, 0, 0, 0, 0, 0, 0], .eob 7)],
    [(.llsym, bits [1, 1, 0, 0, 0, 1, 1, 0], .litlenReserved286 8), (.llsym, bits [1, 1, 0, 0, 0, 1, 1, 1], .litlenReserved287 8)],
    [(.dsym, bits [1, 1, 1, 1, 0], .distReserved30 5), (.dsym, bits [1, 1, 1, 1, 1], .distReserved31 5)]]

/-- LEN_257 to LEN_285 in the fixed code, their extra bits after the code (R163, R215). -/
def lengthWords : List (List Bool × Instr) :=
  List.flatten [
    [(bits [0, 0, 0, 0, 0, 0, 1], .len257 7), (bits [0, 0, 0, 0, 0, 1, 0], .len258 7)],
    [(bits [0, 0, 0, 0, 0, 1, 1], .len259 7), (bits [0, 0, 0, 0, 1, 0, 0], .len260 7)],
    [(bits [0, 0, 0, 0, 1, 0, 1], .len261 7), (bits [0, 0, 0, 0, 1, 1, 0], .len262 7)],
    [(bits [0, 0, 0, 0, 1, 1, 1], .len263 7), (bits [0, 0, 0, 1, 0, 0, 0], .len264 7)],
    [(bits [0, 0, 0, 1, 0, 0, 1, 1], .len265 7 1), (bits [0, 0, 0, 1, 0, 1, 0, 1], .len266 7 1)],
    [(bits [0, 0, 0, 1, 0, 1, 1, 1], .len267 7 1), (bits [0, 0, 0, 1, 1, 0, 0, 1], .len268 7 1)],
    [(bits [0, 0, 0, 1, 1, 0, 1, 0, 1], .len269 7 2), (bits [0, 0, 0, 1, 1, 1, 0, 0, 1], .len270 7 2)],
    [(bits [0, 0, 0, 1, 1, 1, 1, 0, 1], .len271 7 2), (bits [0, 0, 1, 0, 0, 0, 0, 0, 1], .len272 7 2)],
    [(bits [0, 0, 1, 0, 0, 0, 1, 0, 1, 1], .len273 7 6), (bits [0, 0, 1, 0, 0, 1, 0, 0, 1, 1], .len274 7 6)],
    [(bits [0, 0, 1, 0, 0, 1, 1, 0, 1, 1], .len275 7 6), (bits [0, 0, 1, 0, 1, 0, 0, 0, 1, 1], .len276 7 6)],
    [(bits [0, 0, 1, 0, 1, 0, 1, 0, 1, 1, 1], .len277 7 14), (bits [0, 0, 1, 0, 1, 1, 0, 0, 1, 1, 1], .len278 7 14)],
    [(bits [0, 0, 1, 0, 1, 1, 1, 0, 1, 1, 1], .len279 7 14), (bits [1, 1, 0, 0, 0, 0, 0, 0, 0, 1, 1, 1], .len280 8 14)],
    [(bits [1, 1, 0, 0, 0, 0, 0, 1, 0, 1, 1, 1, 1], .len281 8 30), (bits [1, 1, 0, 0, 0, 0, 1, 0, 0, 1, 1, 1, 1], .len282 8 30)],
    [(bits [1, 1, 0, 0, 0, 0, 1, 1, 0, 1, 1, 1, 1], .len283 8 30), (bits [1, 1, 0, 0, 0, 1, 0, 0, 0, 1, 1, 1, 1], .len284 8 30)],
    [(bits [1, 1, 0, 0, 0, 1, 0, 1], .len285 8)]]

/-- DIST_0 to DIST_29 in the fixed code, their extra bits after the code (R163, R217). -/
def distanceWords : List (List Bool × Instr) :=
  List.flatten [
    [(bits [0, 0, 0, 0, 0], .dist0 5)],
    [(bits [0, 0, 0, 0, 1], .dist1 5)],
    [(bits [0, 0, 0, 1, 0], .dist2 5)],
    [(bits [0, 0, 0, 1, 1], .dist3 5)],
    [(bits [0, 0, 1, 0, 0, 1], .dist4 5 1)],
    [(bits [0, 0, 1, 0, 1, 1], .dist5 5 1)],
    [(bits [0, 0, 1, 1, 0, 0, 1], .dist6 5 2)],
    [(bits [0, 0, 1, 1, 1, 0, 1], .dist7 5 2)],
    [(bits [0, 1, 0, 0, 0, 0, 1, 1], .dist8 5 6)],
    [(bits [0, 1, 0, 0, 1, 0, 1, 1], .dist9 5 6)],
    [(bits [0, 1, 0, 1, 0, 0, 1, 1, 1], .dist10 5 14)],
    [(bits [0, 1, 0, 1, 1, 0, 1, 1, 1], .dist11 5 14)],
    [(bits [0, 1, 1, 0, 0, 0, 1, 1, 1, 1], .dist12 5 30)],
    [(bits [0, 1, 1, 0, 1, 0, 1, 1, 1, 1], .dist13 5 30)],
    [(bits [0, 1, 1, 1, 0, 0, 1, 1, 1, 1, 1], .dist14 5 62)],
    [(bits [0, 1, 1, 1, 1, 0, 1, 1, 1, 1, 1], .dist15 5 62)],
    [(bits [1, 0, 0, 0, 0, 0, 1, 1, 1, 1, 1, 1], .dist16 5 126)],
    [(bits [1, 0, 0, 0, 1, 0, 1, 1, 1, 1, 1, 1], .dist17 5 126)],
    [(bits [1, 0, 0, 1, 0, 0, 1, 1, 1, 1, 1, 1, 1], .dist18 5 254)],
    [(bits [1, 0, 0, 1, 1, 0, 1, 1, 1, 1, 1, 1, 1], .dist19 5 254)],
    [(bits [1, 0, 1, 0, 0, 0, 1, 1, 1, 1, 1, 1, 1, 1], .dist20 5 510)],
    [(bits [1, 0, 1, 0, 1, 0, 1, 1, 1, 1, 1, 1, 1, 1], .dist21 5 510)],
    [(bits [1, 0, 1, 1, 0, 0, 1, 1, 1, 1, 1, 1, 1, 1, 1], .dist22 5 1022)],
    [(bits [1, 0, 1, 1, 1, 0, 1, 1, 1, 1, 1, 1, 1, 1, 1], .dist23 5 1022)],
    [(bits [1, 1, 0, 0, 0, 0, 1, 1, 1, 1, 1, 1, 1, 1, 1, 1], .dist24 5 2046)],
    [(bits [1, 1, 0, 0, 1, 0, 1, 1, 1, 1, 1, 1, 1, 1, 1, 1], .dist25 5 2046)],
    [(bits [1, 1, 0, 1, 0, 0, 1, 1, 1, 1, 1, 1, 1, 1, 1, 1, 1], .dist26 5 4094)],
    [(bits [1, 1, 0, 1, 1, 0, 1, 1, 1, 1, 1, 1, 1, 1, 1, 1, 1], .dist27 5 4094)],
    [(bits [1, 1, 1, 0, 0, 0, 1, 1, 1, 1, 1, 1, 1, 1, 1, 1, 1, 1], .dist28 5 8190)],
    [(bits [1, 1, 1, 0, 1, 0, 1, 1, 1, 1, 1, 1, 1, 1, 1, 1, 1, 1], .dist29 5 8190)]]

theorem test_decode_fields_and_symbols :
    ∀ r ∈ fieldAndSymbolWords, okIs (decode r.1 tableCtx (r.2.1 ++ bits [1])) (r.2.2, bits [1]) := by decide +kernel

theorem test_decode_lengths :
    ∀ r ∈ lengthWords, okIs (decode .llsym tableCtx (r.1 ++ bits [0])) (r.2, bits [0]) := by decide +kernel

theorem test_decode_distances :
    ∀ r ∈ distanceWords, okIs (decode .dsym tableCtx (r.1 ++ bits [0])) (r.2, bits [0]) := by decide +kernel

/-- P2 at E = 3: five pad bits of any value, LEN = 3, NLEN = 0xFFFC (30_encoding.md R84). -/
theorem test_decode_storedHdr : decode .sh32 { tableCtx with align := 3 }
    (bits [1, 0, 1, 1, 0] ++ bits [1, 1, 0, 0, 0, 0, 0, 0, 0, 0, 0, 0, 0, 0, 0, 0] ++
      bits [0, 0, 1, 1, 1, 1, 1, 1, 1, 1, 1, 1, 1, 1, 1, 1]) = .ok (.storedHdr 3 0xFFFC, []) := eq_of_okIs (by decide +kernel)

/-- H12: the code-length tree of P3: 18 = 0, 1 = 10, 2 = 11. -/
def p3Clt : Tree := build [0, 1 + 1, 2, 0, 0, 0, 0, 0, 0, 0, 0, 0, 0, 0, 0, 0, 0, 0, 1]

/-- T7: 18 = 0, 2 = 10, 16 = 11. -/
def t7Clt : Tree := build [0, 0, 2, 0, 0, 0, 0, 0, 0, 0, 0, 0, 0, 0, 0, 0, 2, 0, 1]

/-- 17 = 1 and 16 = 0, as in T5. -/
def t5Clt : Tree := build [0, 0, 0, 0, 0, 0, 0, 0, 0, 0, 0, 0, 0, 0, 0, 0, 1, 1, 0]

theorem test_decode_clLen :
    decode .clsym { tableCtx with clt := p3Clt } (bits [1, 0, 1]) = .ok (.clLen 2 1, bits [1]) := eq_of_okIs (by decide +kernel)

theorem test_decode_clZeroLong : decode .clsym { tableCtx with clt := p3Clt } (bits [0, 0, 1, 1, 0, 1, 0, 1]) =
    .ok (.clZeroLong 1 86, []) := eq_of_okIs (by decide +kernel)

theorem test_decode_clRepPrev :
    decode .clsym { tableCtx with clt := t7Clt } (bits [1, 1, 1, 0]) = .ok (.clRepPrev 2 1, []) := eq_of_okIs (by decide +kernel)

theorem test_decode_clZeroShort :
    decode .clsym { tableCtx with clt := t5Clt } (bits [1, 0, 1, 1]) = .ok (.clZeroShort 1 6, []) := eq_of_okIs (by decide +kernel)

/-- T5: symbol 16 with no previous length stops before its extra bits are read (R187). -/
theorem test_decode_clRepPrev_first : decode .clsym { tableCtx with clt := t5Clt, noPrevious := true } (bits [0]) =
    .error .noPreviousLength :=
  eq_of_errIs (by decide +kernel)

/-! ## Huffman tables (H1 to H11) -/

theorem test_build_H1 : (build [2, 1, 3, 3]).symbols = [1, 0, 2, 3] ∧
    (List.range 5).map (build [2, 1, 3, 3]).count = [0, 1, 1, 2, 0] := by decide +kernel

theorem test_decode_H2 : decodeSymbol (build [2, 1, 3, 3]) (bits [1, 1, 0]) = .ok (2, 3, []) := eq_of_okIs (by decide +kernel)

theorem test_decode_H10 : decodeSymbol (build [1]) (bits [1] ++ List.replicate 14 false) = .error .invalidCode :=
  eq_of_errIs (by decide +kernel)

theorem test_decode_H11 : decodeSymbol (build [1, 1, 1]) (bits [0]) = .ok (0, 1, []) ∧
    decodeSymbol (build [1, 1, 1]) (bits [1]) = .ok (1, 1, []) :=
  ⟨eq_of_okIs (by decide +kernel), eq_of_okIs (by decide +kernel)⟩

/-- A table memory keeps the entries past the symbols of a build (R153): two are written over four. -/
theorem test_store_keeps_entries :
    (TreeTable.store { counts := Vector.replicate 16 31, symbols := Vector.replicate 19 7 : CltTable }
      (build [2, 0, 1])).symbols.toList.take 4 = [2, 0, 7, 7] := by decide +kernel

/-! ## The programs' states -/

/-- P1 after START: `4B 4C 44 00 00`, C = 1024. -/
def p1 : State :=
  { State.reset with
    src := [(0, 0x4B), (1, 0x4C), (2, 0x44)], srcLen := 5, dstCap := 1024, runN := 5, runC := 1024
    phase := .hdrBfinal }

/-- P1 in its block, at position `p`. -/
def p1Body (p : Word) : State := { p1 with phase := .body, bfinal := 1, btype := 1, p := p }

/-- P1 at its back-reference, after two literals. -/
def p1Match : State := { p1Body 19 with outlen := 2, dst := [(0, 0x61), (1, 0x61)] }

/-- P2 after its block header: `01 03 00 FC FF 41 42 43`. -/
def p2 (phase : Phase) (p : Word) : State :=
  { State.reset with
    src := [(0, 0x01), (1, 0x03), (3, 0xFC), (4, 0xFF), (5, 0x41), (6, 0x42), (7, 0x43)], srcLen := 8, dstCap := 1024
    runN := 8, runC := 1024, phase := phase, bfinal := 1, p := p, storedRem := 3 }

/-- P3 in a phase of its dynamic header: `0D C0 81 00 00 00 00 80 20 D6 FC 25 3E 0B`. -/
def p3 (phase : Phase) (p : Word) : State :=
  { State.reset with
    src := [(0, 0x0D), (1, 0xC0), (2, 0x81), (7, 0x80), (8, 0x20), (9, 0xD6), (10, 0xFC), (11, 0x25), (12, 0x3E),
      (13, 0x0B)]
    srcLen := 14, dstCap := 1024, runN := 14, runC := 1024, phase := phase, bfinal := 1, btype := 2, p := p }

/-- P3 at its code lengths, `num` of them set. -/
def p3Lens (p : Word) (num : BitVec 9) : State :=
  { p3 .dynLens p with hlit := 258, hdist := 1, hclen := 18, cli := 18, clt := .store .blank p3Clt, num := num }

/-- A fixed block of a few bytes, at its first element (B1 to B10). -/
def fixed (bytes : List (Nat × Byte)) (n : Word) : State :=
  { State.reset with src := bytes, runN := n, runC := 1024, phase := .body, bfinal := 1, btype := 1, p := 3 }

/-! ## Steps -/

/-- P1, bit 0 (R241). -/
theorem test_bfinal_P1 : after (step p1) (fun t => (t.p, t.bfinal, t.phase)) = some (1, 1, .hdrBtype) := by
  decide +kernel

/-- M2: an empty source (R241). -/
theorem test_bfinal_M2 : after (step { State.reset with phase := .hdrBfinal }) (fun t => (t.p, t.errcode)) =
    some (0, .truncatedStream) := by decide +kernel

/-- P1, bits 1 and 2 (R242). -/
theorem test_btypeFixed_P1 : after (step { p1 with phase := .hdrBtype, p := 1, active := 1 })
    (fun t => (t.p, t.btype, t.active, t.phase)) = some (3, 1, 0, .body) := by decide +kernel

theorem test_btypeStored_P2 : after (step (p2 .hdrBtype 1)) (fun t => (t.btype, t.phase)) =
    some (0, .storedHdr) := by decide +kernel

theorem test_btypeDynamic_P3 : after (step (p3 .hdrBtype 1)) (fun t => (t.btype, t.phase)) =
    some (2, .dynHlit) := by decide +kernel

/-- M1: `07` (R243). -/
theorem test_btypeReserved_M1 : after (step { State.reset with src := [(0, 7)], runN := 1, phase := .hdrBtype, p := 1 })
    (fun t => (t.p, t.errcode, t.phase, t.trace)) = some (1, .invalidBlockType, .error, []) := by decide +kernel

/-- P2 at E = 3 (R244). -/
theorem test_storedHdr_P2 : after (step (p2 .storedHdr 3)) (fun t => (t.p, t.storedRem, t.phase, t.trace)) =
    some (40, 3, .storedData, [.storedHeader 5 3 0xFFFC { index := 3, length := 37 }]) := by decide +kernel

/-- M3: the alignment is undone (R245). -/
theorem test_storedHdr_M3 : after (step { p2 .storedHdr 3 with src := (p2 .storedHdr 3).src.write 4 0xFE })
    (fun t => (t.p, t.errcode)) = some (3, .blockLengthMismatch) := by decide +kernel

/-- P2 at E = 40 (R246). -/
theorem test_storedByte_P2 : after (step (p2 .storedData 40)) (fun t => (t.dst, t.outlen, t.storedRem, t.phase)) =
    some ([(0, 0x41)], 1, 2, .storedData) := by decide +kernel

/-- The last data byte ends the data (R246). -/
theorem test_storedByte_last : after (step { p2 .storedData 56 with storedRem := 1 })
    (fun t => (t.dst, t.storedRem, t.phase)) = some ([(0, 0x43)], 0, .storedEnd) := by decide +kernel

/-- P2 at P = 64 (R247). -/
theorem test_storedEnd_P2 : after (step (p2 .storedEnd 64)) (fun t => (t.p, t.phase, t.trace)) =
    some (64, .done, [.blockEnd { index := 64, length := 0 }]) := by decide +kernel

/-- P3 at E = 3 (R180). -/
theorem test_hlit_P3 : after (step (p3 .dynHlit 3)) (fun t => (t.hlit, t.p, t.phase)) =
    some (258, 8, .dynHdist) := by decide +kernel

/-- T4: field 31 (R180). -/
theorem test_hlitReserved_T4 : after (step { State.reset with src := [(0, 0xFD)], runN := 3, phase := .dynHlit, p := 3 })
    (fun t => (t.p, t.errcode, t.hlit)) = some (3, .invalidStream, 0) := by decide +kernel

/-- P3 at E = 8 (R181). -/
theorem test_hdist_P3 : after (step (p3 .dynHdist 8)) (fun t => (t.hdist, t.p, t.phase)) =
    some (1, 13, .dynHclen) := by decide +kernel

/-- P3 at E = 13 (R182; NUM: R31). -/
theorem test_hclen_P3 : after (step { p3 .dynHclen 13 with cli := 7, num := 9 })
    (fun t => (t.hclen, t.p, t.cli, t.num, t.phase)) = some (18, 17, 0, 0, .dynCllen) := by decide +kernel

/-- P3, the third code length: 1 for ORDER[2] = 18 (R183). -/
theorem test_cllen_P3 : after (step { p3 .dynCllen 23 with hclen := 18, cli := 2 })
    (fun t => (t.cllen[18]?, t.cli, t.phase, t.trace)) =
    some (some 1, 3, .dynCllen, [.codeLength .runLengthTable 18 1 { index := 23, length := 3 }]) := by decide +kernel

/-- P3, the eighteenth: 2 for ORDER[17] = 1; the tree is built (R183). -/
theorem test_cllen_last : after (step { p3 .dynCllen 68 with hclen := 18, cli := 17 })
    (fun t => (t.cllen[1]?, t.cli, t.num, t.phase)) = some (some 2, 18, 0, .dynLens) := by decide +kernel

/-- P3 at E = 79 (R186). -/
theorem test_clLen_P3 : after (step (p3Lens 79 97)) (fun t => (t.p, t.num, t.lens[97]?, t.trace)) =
    some (81, 98, some 1, [.codeLength .lz77LengthTable 97 1 { index := 79, length := 2 }]) := by decide +kernel

/-- P3, the last length: index 258 is distance symbol 0, and the trees are built (R186, R192; T3). -/
theorem test_clLen_last : after (step { p3Lens 101 258 with hlit := 258, hdist := 1 })
    (fun t => (t.p, t.phase, t.active, t.ddt.tree.symbols)) = some (103, .body, 1, [0]) := by decide +kernel

/-- T7: a repeat across the split, from index 255 of 257 + 1 lengths (R187, R193). -/
theorem test_clRepPrev_T7 : after (exec (.clRepPrev 2 0)
      { p3Lens 93 255 with hlit := 257, hdist := 1, lens := (Vector.replicate 318 0).setIfInBounds 254 2 })
    (fun t => (t.num, t.lens[254]?, t.lens[257]?, t.lens[258]?, t.phase)) =
    some (258, some 2, some 2, some 0, .body) := by decide +kernel

/-- T5: NUM = 0 (R187). -/
theorem test_clRepPrev_T5 : after (exec (.clRepPrev 1 0) (p3Lens 29 0)) (fun t => (t.p, t.errcode)) =
    some (29, .invalidStream) := by decide +kernel

/-- Extra field 7 sets ten entries, legal at NUM = 0 (R188). -/
theorem test_clZeroShort_ten : after (exec (.clZeroShort 3 7) (p3Lens 30 0)) (fun t => (t.p, t.num)) =
    some (36, 10) := by decide +kernel

/-- A repeat past HLIT + HDIST (R190). -/
theorem test_clZeroShort_overrun : after (exec (.clZeroShort 3 7) (p3Lens 30 250)) (fun t => (t.p, t.errcode, t.num)) =
    some (30, .invalidStream, 250) := by decide +kernel

/-- P3 at E = 71: ZEROS 97 (R189). -/
theorem test_clZeroLong_P3 : after (step (p3Lens 71 0)) (fun t => (t.p, t.num, t.trace.map TraceRecord.span)) =
    some (79, 97, [{ index := 71, length := 8 }]) := by decide +kernel

/-- P1 at E = 3 (R211). -/
theorem test_lit_P1 : after (step (p1Body 3)) (fun t => (t.p, t.dst, t.outlen, t.trace)) =
    some (11, [(0, 0x61)], 1, [.literal 97 { index := 3, length := 8 }]) := by decide +kernel

/-- B12: C = 0 (R211). -/
theorem test_lit_B12 : after (step { p1Body 3 with runC := 0 }) (fun t => (t.p, t.errcode, t.outlen)) =
    some (3, .outputOverflow, 0) := by decide +kernel

/-- P1 at E = 31: the span runs to the byte boundary, P does not (R212). -/
theorem test_eob_P1 : after (step (p1Body 31)) (fun t => (t.p, t.phase, t.trace)) =
    some (38, .done, [.blockEnd { index := 31, length := 9 }]) := by decide +kernel

/-- P4: the end of a block that is not the last (R212, R249). -/
theorem test_eob_P4 : after (exec (.eob 7) { p1Body 19 with bfinal := 0 }) (fun t => (t.p, t.phase, t.trace)) =
    some (26, .hdrBfinal, [.blockEnd { index := 19, length := 7 }]) := by decide +kernel

/-- B1 (R213). -/
theorem test_litlenReserved286_B1 : after (step (fixed [(0, 0x1B), (1, 0x03)] 2)) (fun t => (t.p, t.errcode)) =
    some (3, .invalidStream) := by decide +kernel

/-- B2 (R213). -/
theorem test_litlenReserved287_B2 : after (step (fixed [(0, 0x1B), (1, 0x07)] 2)) (fun t => (t.p, t.errcode)) =
    some (3, .invalidStream) := by decide +kernel

/-- P1 at E = 19: length 10, distance 1, an overlapping copy (R214, R216 to R221). -/
theorem test_match_P1 : after (step p1Match) (fun t => (t.p, t.outlen, t.matchPart, t.trace)) =
    some (31, 12, none, [.lz77 10 264 { index := 26, length := 0 } 1 0 { index := 31, length := 0 }
      { index := 19, length := 12 } (List.replicate 10 0x61)]) := by decide +kernel

/-- B11: C = 5 (R220). -/
theorem test_match_B11 : after (step { p1Match with runC := 5 }) (fun t => (t.errcode, t.outlen, t.dst)) =
    some (.outputOverflow, 5, [(0, 0x61), (1, 0x61), (2, 0x61), (3, 0x61), (4, 0x61)]) := by decide +kernel

/-- B5: OUTLEN = 0 (R218). -/
theorem test_dist0_B5 : after (step (fixed [(0, 0x03), (1, 0x02)] 3)) (fun t => (t.p, t.errcode)) =
    some (3, .invalidDistance) := by decide +kernel

/-- B3 and B4: distance symbols 30 and 31 (R216). -/
theorem test_distReserved_B3_B4 :
    after (step { fixed [(0, 0x4B), (1, 0x04), (2, 0x3E)] 3 with p := 11, outlen := 1 }) (fun t => (t.p, t.errcode)) =
      some (11, .invalidStream) ∧
    after (step { fixed [(0, 0x4B), (1, 0x04), (2, 0x7E)] 3 with p := 11, outlen := 1 }) (fun t => (t.p, t.errcode)) =
      some (11, .invalidStream) := by decide +kernel

/-- The last column of R215: the greatest length of each length symbol. -/
def longestLengths : List (Instr × BitVec 9) :=
  List.flatten [
    [(.len257 7, 3), (.len258 7, 4), (.len259 7, 5), (.len260 7, 6)],
    [(.len261 7, 7), (.len262 7, 8), (.len263 7, 9), (.len264 7, 10)],
    [(.len265 7 1, 12), (.len266 7 1, 14), (.len267 7 1, 16), (.len268 7 1, 18)],
    [(.len269 7 3, 22), (.len270 7 3, 26), (.len271 7 3, 30), (.len272 7 3, 34)],
    [(.len273 7 7, 42), (.len274 7 7, 50), (.len275 7 7, 58), (.len276 7 7, 66)],
    [(.len277 7 15, 82), (.len278 7 15, 98), (.len279 7 15, 114), (.len280 7 15, 130)],
    [(.len281 7 31, 162), (.len282 7 31, 194), (.len283 7 31, 226), (.len284 7 31, 258)],
    [(.len285 7, 258)]]

/-- The last column of R217: the greatest distance of each distance symbol. -/
def longestDistances : List (Instr × BitVec 16) :=
  List.flatten [
    [(.dist0 5, 1), (.dist1 5, 2), (.dist2 5, 3), (.dist3 5, 4)],
    [(.dist4 5 1, 6), (.dist5 5 1, 8), (.dist6 5 3, 12), (.dist7 5 3, 16)],
    [(.dist8 5 7, 24), (.dist9 5 7, 32), (.dist10 5 15, 48), (.dist11 5 15, 64)],
    [(.dist12 5 31, 96), (.dist13 5 31, 128), (.dist14 5 63, 192), (.dist15 5 63, 256)],
    [(.dist16 5 127, 384), (.dist17 5 127, 512), (.dist18 5 255, 768), (.dist19 5 255, 1024)],
    [(.dist20 5 511, 1536), (.dist21 5 511, 2048), (.dist22 5 1023, 3072), (.dist23 5 1023, 4096)],
    [(.dist24 5 2047, 6144), (.dist25 5 2047, 8192), (.dist26 5 4095, 12288), (.dist27 5 4095, 16384)],
    [(.dist28 5 8191, 24576), (.dist29 5 8191, 32768)]]

theorem test_len_values : ∀ r ∈ longestLengths,
    after (exec r.1 (p1Body 3)) (fun t => t.matchPart.map MatchPart.length) = some (some r.2) := by decide +kernel

/-- The distance a record carries (R221). -/
def distanceOf : TraceRecord → BitVec 16
  | .lz77 _ _ _ d _ _ _ _ => d
  | _ => 0

theorem test_dist_values : ∀ r ∈ longestDistances,
    after (exec r.1 { p1Body 3 with
      outlen := 32768, runC := 40000, matchPart := some (plantedLength 3) }) (fun t => t.trace.map distanceOf) =
      some [r.2] := by decide +kernel

/-- K16: the buffered reader after BFINAL holds 23 bits; BTYPE loads SRC[3] and leaves 29 (R128, R129). -/
theorem test_cursor_K16 : after (step { p1 with
      phase := .hdrBtype, p := 1, cursor := { srcIdx := 3, bitBuf := 0x222625, bitCnt := 23 } })
    (fun t => (t.cursor.srcIdx, t.cursor.bitCnt)) = some (4, 29) := by decide +kernel

/-- K17: the push-back (R130). -/
theorem test_cursor_K17 : ({ srcIdx := 7, bitBuf := 0x7FFFFFF, bitCnt := 27 } : BitCursor).align =
    { srcIdx := 4, bitBuf := 0, bitCnt := 0 } := by decide +kernel

/-- K3: `readBits(8, 0)` at P = 3 (R123). -/
theorem test_field_K3 : bitsToNat (streamBits p1.src 3 8) = 0x89 := by decide +kernel

/-- While the trace port's consumer accepts nothing, the step is held back (R286). -/
theorem test_port_holds : step { p1 with traceReady := false } = .next { p1 with traceReady := false } := by rfl

/-- START (R303), whatever CSR_BASE is. -/
theorem test_start : step { p1 with phase := .done, p := 38, host := [.regWrite Config.csrBase 4 1] } =
    .next { p1 with p := 0 } := by
  rw [step_host rfl]
  simp [perform, regWrite, regAccessOk, Reg.atOffset, State.writeReg, State.writeCtrl, State.busy, Phase.statusState,
    State.start, p1, State.reset]

/-- R-2: STATUS at DONE with BFINAL = 1 and ACTIVE = 0, and CONSUMED_BYTES at P = 38 (R302). -/
theorem test_status_R2 : ({ p1Body 38 with phase := .done } : State).status = 6 ∧
    (p1Body 38).consumedBytes = 5 := by decide +kernel

/-! ## Table words -/

theorem test_tableWords : decodeTableWord 8 3 = some .btypeReserved ∧ decodeTableWord 8 30 = some (.hlitReserved 0) ∧
    decodeTableWord 8 17 = some (.clZeroShort 5 0) ∧ decodeTableWord 8 29 = some (.dist29 5 0) ∧
    decodeTableWord 16 256 = some (.eob 7) ∧ decodeTableWord 16 285 = some (.len285 8) ∧
    decodeTableWord 32 0 = some (.storedHdr 0 0) ∧ decodeTableWord 0 0 = some .storedEnd := by decide +kernel

theorem test_tableWord_runs : after (step (State.reset.withFetchWord 8 29)) (fun t => (t.p, t.errcode)) =
    some (0, .invalidDistance) := by decide +kernel

/-! ## Witnesses: for every statement with hypotheses, states and operands that meet them together -/

theorem p1_undisturbed : p1.Undisturbed := ⟨rfl, rfl⟩

theorem p1_inv : p1.Inv :=
  ⟨by decide, by decide, by decide, by decide, by decide, by decide, by decide, rfl, trivial⟩

theorem witness_StepRunsTheDecodedElement : p1.Undisturbed ∧ p1.elementFormat = some .f1 ∧
    decode .f1 p1.decodeCtx p1.fetchBits = .ok (.bfinal 1, p1.fetchBits.drop 1) ∧
    (Instr.bfinal 1).asLength = none :=
  ⟨p1_undisturbed, rfl, eq_of_okIs (by decide +kernel), rfl⟩

/-- The element LEN_264 of P1. -/
def p1Len : Instr := .len264 7

/-- P1 between the two parts of its back-reference. -/
def p1Half : State := nextOf (exec p1Len p1Match) p1Match

/-- Its length part. -/
def p1Part : MatchPart := { start := 19, sym := 264, extraAt := 26, extraBits := 0, length := 10 }

theorem witness_StepRunsLengthThenDistance : p1Match.Undisturbed ∧ p1Match.elementFormat = some .llsym ∧
    decode .llsym p1Match.decodeCtx p1Match.fetchBits = .ok (p1Len, p1Match.fetchBits.drop 7) ∧
    p1Len.asLength ≠ none ∧ exec p1Len p1Match = .next p1Half ∧ p1Half.matchPart = some p1Part ∧
    decode .dsym p1Half.decodeCtx p1Half.fetchBits = .ok (.dist0 5, p1Half.fetchBits.drop 5) :=
  ⟨⟨rfl, rfl⟩, rfl, eq_of_okIs (by decide +kernel), by decide, eq_nextOf _ (by decide +kernel), by decide +kernel,
    eq_of_okIs (by decide +kernel)⟩

/-- A dynamic block whose distance tree is empty, at a length code `11` (as in B14). -/
def noDistances : State :=
  { p1Body 0 with
    src := [(0, 3)], active := 1
    dlt := .store .blank (build (List.replicate 97 0 ++ [1] ++ List.replicate 158 0 ++ [2, 2])), ddt := .blank }

theorem witness_UndecodableElementRaises_truncated :
    let s : State := { State.reset with phase := .hdrBfinal }
    s.Undisturbed ∧ s.elementFormat = some .f1 ∧ decode .f1 s.decodeCtx s.fetchBits = .error .truncated :=
  ⟨⟨rfl, rfl⟩, rfl, eq_of_errIs (by decide +kernel)⟩

theorem witness_UndecodableElementRaises_invalid :
    let s : State := { p3Lens 29 0 with clt := .blank }
    s.Undisturbed ∧ s.elementFormat = some .clsym ∧ decode .clsym s.decodeCtx s.fetchBits = .error .invalidCode :=
  ⟨⟨rfl, rfl⟩, rfl, eq_of_errIs (by decide +kernel)⟩

theorem witness_UndecodableElementRaises_noPrevious :
    let s : State := { p3Lens 29 0 with clt := .store .blank t5Clt }
    s.Undisturbed ∧ s.elementFormat = some .clsym ∧
      decode .clsym s.decodeCtx s.fetchBits = .error .noPreviousLength :=
  ⟨⟨rfl, rfl⟩, rfl, eq_of_errIs (by decide +kernel)⟩

theorem witness_UndecodableElementRaises_distance :
    let t := nextOf (exec (.len257 2) noDistances) noDistances
    noDistances.Undisturbed ∧ noDistances.elementFormat = some .llsym ∧
    decode .llsym noDistances.decodeCtx noDistances.fetchBits = .ok (.len257 2, noDistances.fetchBits.drop 2) ∧
    (Instr.len257 2).asLength ≠ none ∧ exec (.len257 2) noDistances = .next t ∧
    t.matchPart = some { start := 0, sym := 257, extraAt := 2, extraBits := 0, length := 3 } ∧
    decode .dsym t.decodeCtx t.fetchBits = .error .invalidCode :=
  ⟨⟨rfl, rfl⟩, rfl, eq_of_okIs (by decide +kernel), by decide, eq_nextOf _ (by decide +kernel), by decide +kernel,
    eq_of_errIs (by decide +kernel)⟩

theorem witness_QuietPhasesDoNothing : State.reset.host = [] ∧ State.reset.phase = .idle ∧
    ({ p1 with phase := .done } : State).phase = .done ∧ ({ p1 with phase := .error } : State).phase = .error := by
  decide +kernel

/-- P1 after its first step. -/
def p1Next : State := nextOf (step p1) p1

theorem p1_steps : step p1 = .next p1Next := eq_nextOf _ (by decide +kernel)

theorem witness_StepFollowsThePhaseTable : p1.Undisturbed ∧ p1.busy = true ∧ step p1 = .next p1Next :=
  ⟨p1_undisturbed, rfl, p1_steps⟩

/-- P = 8·N; the first length row and the last, both with no extra bits; and the last distance row with none. -/
theorem witness_ZeroWidthReadDoesNothing :
    ({ p1 with p := 40 } : State).p.toNat = 8 * ({ p1 with p := 40 } : State).runN.toNat ∧
    (Instr.len257 7).asLength = some (257, 7, 0) ∧ lbits (257 - 257) = 0 ∧
    (Instr.len285 8).asLength = some (285, 8, 0) ∧ lbits (285 - 257) = 0 ∧
    (Instr.dist3 5).asDistance = some (3, 5, 0) ∧ dbits 3 = 0 := by decide +kernel

/-- The empty buffered reader at P = 0. -/
def emptyReader : BitCursor := { srcIdx := 0, bitBuf := 0, bitCnt := 0 }

theorem emptyReader_coherent (src : Memory) (n : Nat) : emptyReader.Coherent src n 0 :=
  ⟨rfl, Nat.zero_le _, by intro k _; simp [emptyReader]⟩

/-- One source byte: reads of 1 and of 8 bits fit, a read of 9 does not. -/
theorem witness_BufferedReaderFollowsP : 1 < 2 ^ 29 ∧ emptyReader.Coherent [(0, 0x4B)] 1 0 ∧
    (1 ≤ 8 ∧ 8 ≤ 16 ∧ 0 + 8 ≤ 8 * 1) ∧ (1 ≤ 9 ∧ 9 ≤ 16 ∧ 8 * 1 < 0 + 9) :=
  ⟨by decide, emptyReader_coherent _ _, by decide, by decide⟩

theorem witness_BuildSortsSymbolsByLength : [2, 1, 3, 3].length ≤ 288 ∧ (∀ l ∈ [2, 1, 3, 3], l ≤ 15) := by decide

theorem witness_BuildIsThePlacementAlgorithm : fixedLitLengths.length ≤ 288 ∧ (∀ l ∈ fixedLitLengths, l ≤ 15) := by
  decide +kernel

theorem witness_DecodesExactlyTheCanonicalCodes : [2, 1, 3, 3].length ≤ 288 ∧ (∀ l ∈ [2, 1, 3, 3], l ≤ 15) ∧
    encodeSymbol (build [2, 1, 3, 3]) 3 2 = some (bits [1, 1, 0]) := by decide +kernel

theorem witness_DecodeFailsByTheBitsLeft : Tree.empty.Legal 1 ∧
    decodeSymbol Tree.empty (List.replicate 14 true) = .error .truncated ∧
    decodeSymbol Tree.empty (List.replicate 15 true) = .error .invalidCode :=
  ⟨by decide, eq_of_errIs (by decide +kernel), eq_of_errIs (by decide +kernel)⟩

theorem witness_DecodeInvertsEncode : (Instr.lit 8 97).wellFormed = true ∧
    encode tableCtx (.lit 8 97) = some (bits [1, 0, 0, 1, 0, 0, 0, 1]) ∧
    (Instr.clRepPrev 5 3).wellFormed = true ∧ tableCtx.noPrevious = false ∧
    encode tableCtx (.clRepPrev 5 3) = some (bits [1, 0, 0, 0, 0, 1, 1]) := by decide +kernel

/-- The last bit of the source, and none left. -/
theorem witness_BfinalStepLatchesTheBit :
    let s : State := { p1 with p := 39 }
    s.Undisturbed ∧ s.phase = .hdrBfinal ∧ s.p.toNat + 1 = 8 * s.runN.toNat ∧
    ({ p1 with p := 40 } : State).Undisturbed ∧ 8 * ({ p1 with p := 40 } : State).runN.toNat <
      ({ p1 with p := 40 } : State).p.toNat + 1 := by decide

theorem witness_BtypeStepSelectsTheBlock :
    let s (p : Word) : State := { p1 with phase := .hdrBtype, p := p }
    (s 1).Undisturbed ∧ (s 1).phase = .hdrBtype ∧ (s 38).p.toNat + 2 = 8 * (s 38).runN.toNat ∧
    (s 39).Undisturbed ∧ 8 * (s 39).runN.toNat < (s 39).p.toNat + 2 := by decide

theorem witness_HdistStepReadsTheCount :
    (p3 .dynHdist 8).Undisturbed ∧ (p3 .dynHdist 8).phase = .dynHdist ∧
    (p3 .dynHdist 107).p.toNat + 5 = 8 * (p3 .dynHdist 107).runN.toNat ∧
    8 * (p3 .dynHdist 108).runN.toNat < (p3 .dynHdist 108).p.toNat + 5 := by decide

theorem witness_LiteralStepAppendsTheByte : (p1Body 3).Undisturbed ∧ (p1Body 3).phase = .body ∧
    (p1Body 3).matchPart = none ∧
    decodeSymbol (p1Body 3).litTree (p1Body 3).fetchBits = .ok (97, 8, (p1Body 3).fetchBits.drop 8) ∧
    (p1Body 3).outlen ≠ (p1Body 3).runC ∧ ({ p1Body 3 with runC := 0 } : State).outlen = 0 ∧
    decodeSymbol (p1Body 40).litTree (p1Body 40).fetchBits = .error .truncated ∧
    decodeSymbol Tree.empty p1.fetchBits = .error .invalidCode ∧
    ({ p1Body 0 with active := 1 } : State).litTree = Tree.empty :=
  ⟨⟨rfl, rfl⟩, rfl, rfl, eq_of_okIs (by decide +kernel), by decide, rfl, eq_of_errIs (by decide +kernel),
    eq_of_errIs (by decide +kernel), by decide +kernel⟩

theorem witness_BlockHeaderElements : p1.hasBits 1 ∧ p1.hasBits 2 ∧ ({ p1 with p := 39 } : State).hasBits 1 ∧
    ({ p1 with p := 38 } : State).hasBits 2 := by decide

theorem witness_StoredHeaderElement : (p2 .storedHdr 3).hasBits (padOf (p2 .storedHdr 3).p.toNat + 32) ∧
    (3 : BitVec 16) = ~~~0xFFFC ∧ (0 : BitVec 16) = ~~~0xFFFF ∧
    (3 : BitVec 16).toNat + (0xFEFC : BitVec 16).toNat ≠ 0xFFFF := by decide

theorem witness_StoredByteAndEndElements : (p2 .storedData 56).hasBits 8 ∧
    (p2 .storedData 56).outlen ≠ (p2 .storedData 56).runC ∧
    ({ p2 .storedData 56 with runC := 0 } : State).hasBits 8 ∧
    ({ p2 .storedData 56 with runC := 0 } : State).outlen = 0 := by decide

theorem witness_DynamicCountElements : (p3 .dynHlit 3).hasBits 5 ∧ (29 : BitVec 5).toNat < 30 ∧
    (p3 .dynHclen 13).hasBits 4 := by decide

theorem witness_CodeLengthAlphabetElement : (p3 .dynCllen 17).hasBits 3 ∧
    ({ p3 .dynCllen 68 with cli := 17, hclen := 18 } : State).cli + 1 = 18 := by decide

theorem witness_CodeLengthElement : (p3Lens 79 97).hasBits 2 ∧
    ((p3Lens 101 258).num + 1).toNat = (p3Lens 101 258).hlit.toNat + (p3Lens 101 258).hdist.toNat ∧
    (p3Lens 101 258).hlit.toNat ≤ 286 ∧ (p3Lens 101 258).hdist.toNat ≤ 32 := by decide

/-- Symbol 16 with a previous length; symbols 17 and 18 with no length set; and a repeat that ends exactly at TOT. -/
theorem witness_RepeatElements : (p3Lens 93 255).num ≠ 0 ∧ (p3Lens 93 255).lens[255 - 1]? = some 0 ∧
    (p3Lens 93 255).hasBits 4 ∧
    (p3Lens 93 255).num.toNat + 4 = (p3Lens 93 255).hlit.toNat + (p3Lens 93 255).hdist.toNat ∧
    (p3Lens 71 248).hasBits (3 + 3) ∧
    (p3Lens 71 248).num.toNat + 10 ≤ (p3Lens 71 248).hlit.toNat + (p3Lens 71 248).hdist.toNat ∧
    (p3Lens 71 0).hasBits 8 ∧ (p3Lens 71 0).num.toNat + 97 ≤ (p3Lens 71 0).hlit.toNat + (p3Lens 71 0).hdist.toNat := by
  decide +kernel

theorem witness_RepeatFaults : (p3Lens 93 256).num ≠ 0 ∧ (p3Lens 93 256).hasBits 4 ∧
    (p3Lens 93 256).hlit.toNat + (p3Lens 93 256).hdist.toNat < (p3Lens 93 256).num.toNat + 4 ∧
    (p3Lens 29 0).num = 0 ∧ (p3Lens 29 0).hasBits 1 := by decide

theorem witness_LiteralEndAndReservedElements : (p1Body 3).hasBits 8 ∧ (p1Body 3).outlen ≠ (p1Body 3).runC ∧
    ({ p1Body 3 with runC := 0 } : State).outlen = 0 ∧ (p1Body 31).hasBits 7 ∧ (p1Body 31).runN.toNat < 2 ^ 29 := by
  decide

theorem witness_LengthElements : p1Len.asLength = some (264, 7, 0) ∧ p1Match.hasBits (7 + lbits (264 - 257)) ∧
    (Instr.len285 8).asLength = some (285, 8, 0) ∧ (Instr.len257 7).asLength = some (257, 7, 0) := by decide +kernel

/-- P1 at its distance part: distance 1 of 2 bytes of output; the second part has C = 12, which the copy just fills. -/
theorem witness_DistanceElements : (Instr.dist0 5).asDistance = some (0, 5, 0) ∧ p1Half.matchPart = some p1Part ∧
    p1Half.hasBits (5 + dbits 0) ∧ p1Half.dst.wf ∧ dbase 0 + 0 ≤ p1Half.outlen.toNat ∧
    p1Half.outlen.toNat + p1Part.length.toNat ≤ p1Half.runC.toNat ∧
    p1Half.outlen.toNat + p1Part.length.toNat ≤ 12 ∧ (Instr.dist1 5).asDistance = some (1, 5, 0) ∧
    dbase 1 + 0 = p1Half.outlen.toNat := by decide +kernel

theorem witness_DistanceOverflowKeepsTheBytesThatFit :
    let s : State := { p1Half with runC := 11 }
    (Instr.dist0 5).asDistance = some (0, 5, 0) ∧ s.matchPart = some p1Part ∧ s.hasBits (5 + dbits 0) ∧ s.dst.wf ∧
    dbase 0 + 0 ≤ s.outlen.toNat ∧ s.outlen.toNat ≤ s.runC.toNat ∧
    s.runC.toNat < s.outlen.toNat + p1Part.length.toNat := by decide +kernel

theorem witness_DistanceFaults : (Instr.dist2 5).asDistance = some (2, 5, 0) ∧ p1Half.matchPart = some p1Part ∧
    p1Half.hasBits (5 + dbits 2) ∧ p1Half.outlen.toNat < dbase 2 + 0 ∧ p1Half.hasBits 5 := by decide +kernel

theorem witness_DistanceNeedsALengthPart : (Instr.dist0 5).format = .dsym ∧ (Instr.distReserved31 5).format = .dsym ∧
    p1.matchPart = none := by decide +kernel

theorem witness_TruncatedElementRaises :
    let s : State := { p1Half with p := 37 }
    ({ p1 with p := 40 } : State).p.toNat ≤ 8 * ({ p1 with p := 40 } : State).runN.toNat ∧
    ¬ ({ p1 with p := 40 } : State).hasBits ((Instr.bfinal 1).width (40 % 8)) ∧
    s.p.toNat ≤ 8 * s.runN.toNat ∧ s.runN.toNat < 2 ^ 29 ∧ ¬ s.hasBits ((Instr.dist0 5).width (s.p.toNat % 8)) ∧
    s.matchPart ≠ none := by decide +kernel

theorem witness_RegistersAreWrittenOnlyByTheirElements : exec p1Len p1Match = .next p1Half :=
  eq_nextOf _ (by decide +kernel)

theorem witness_DstIsWrittenOnlyAtOutlen : p1Half.outlen.toNat ≤ p1Half.runC.toNat ∧ p1Half.dst.wf ∧
    exec (.dist0 5) p1Half = .next (nextOf (exec (.dist0 5) p1Half) p1) :=
  ⟨by decide +kernel, by decide +kernel, eq_nextOf _ (by decide +kernel)⟩

theorem witness_FaultsArePrecise :
    let s : State := { p1 with p := 40 }
    s.phase ≠ .error ∧ exec (.bfinal 1) s = .next (nextOf (exec (.bfinal 1) s) s) ∧
      (nextOf (exec (.bfinal 1) s) s).phase = .error :=
  ⟨by decide, eq_nextOf _ (by decide +kernel), by decide +kernel⟩

theorem witness_StepKeepsTheEngineInvariant : p1.Inv ∧ step p1 = .next p1Next := ⟨p1_inv, p1_steps⟩

theorem witness_EngineStepAlwaysCompletes : p1.Inv ∧ p1.host = [] := ⟨p1_inv, rfl⟩

theorem witness_LengthRegistersStayLegal : step State.reset = .next State.reset ∧
    State.reset.srcLen.toNat ≤ Config.srcMaxBytes ∧ State.reset.dstCap.toNat ≤ Config.dstCapMax ∧
    State.reset.runN.toNat ≤ Config.srcMaxBytes ∧ State.reset.runC.toNat ≤ Config.dstCapMax :=
  ⟨rfl, Nat.zero_le _, Nat.zero_le _, Nat.zero_le _, Nat.zero_le _⟩

theorem witness_TraceCountIsTheLength : step p1 = .next p1Next ∧ p1.traceCount = BitVec.ofNat 32 p1.trace.length :=
  ⟨p1_steps, rfl⟩

theorem p1_tiled : p1.Tiled := rfl

theorem witness_TraceTilesTheConsumedBits : p1.Inv ∧ p1.Tiled ∧ step p1 = .next p1Next :=
  ⟨p1_inv, p1_tiled, p1_steps⟩

theorem p1_textOk : p1.TextOk := ⟨fun i h => absurd h (Nat.not_lt_zero i), Nat.zero_le _, fun _ => rfl⟩

theorem witness_TraceTextIsTheOutput : p1.Inv ∧ p1.host = [] ∧ p1.TextOk ∧ step p1 = .next p1Next :=
  ⟨p1_inv, rfl, p1_textOk, p1_steps⟩

theorem witness_ReaderStaysCoherent : p1.Inv ∧ p1.CursorOk ∧ p1.busy = true ∧ step p1 = .next p1Next :=
  ⟨p1_inv, fun _ => emptyReader_coherent _ _, rfl, p1_steps⟩

theorem witness_RecordSpansHaveTheirLengths : p1.Inv ∧ p1.host = [] ∧ step p1 = .next p1Next ∧
    p1Next.trace = p1.trace ++ [.bfinal 1 { index := 0, length := 1 }] :=
  ⟨p1_inv, rfl, p1_steps, by decide +kernel⟩

theorem witness_RunEndsWithinTheBound : p1.Inv ∧ p1.Undisturbed ∧ p1.phase = .hdrBfinal ∧ p1.p = 0 :=
  ⟨p1_inv, p1_undisturbed, rfl, rfl⟩

/-- P1 at its back-reference, DST holding something else beyond the output. -/
theorem witness_OldDstIsNotObservable : p1Match.Inv ∧ p1Match.host = [] ∧
    Memory.wf [(0, 0x61), (1, 0x61), (2, 0xFF)] ∧
    (∀ a, a < p1Match.outlen.toNat → Memory.read [(0, 0x61), (1, 0x61), (2, 0xFF)] a = p1Match.dst.read a) ∧
    step p1Match = .next (nextOf (step p1Match) p1) :=
  ⟨⟨by decide, by decide, by decide, by decide, by decide, by decide, by decide, rfl, .inl rfl⟩, rfl, by decide,
    by decide, eq_nextOf _ (by decide +kernel)⟩

/-- P1 with other bits after its first. -/
theorem witness_StepDependsOnItsBitsAlone : p1.Inv ∧ p1.Undisturbed ∧ step p1 = .next p1Next ∧
    p1Next.phase ≠ .error ∧ p1Next.p = 1 ∧ streamBit [(0, 0x01)] 0 = streamBit p1.src 0 :=
  ⟨p1_inv, p1_undisturbed, p1_steps, by decide +kernel, by decide +kernel, by decide⟩

theorem witness_StartBeginsARun :
    ({ p1 with host := [.regWrite Config.csrBase 4 1] } : State).host = [.regWrite Config.csrBase 4 1] ∧
    (1 : Word).getLsbD 0 = true ∧ State.reset.busy = false ∧ p1.busy = true := ⟨rfl, by decide, rfl, rfl⟩

theorem witness_StartMeetsTheRunInvariants : p1.Inv := p1_inv

theorem witness_RegisterWrites :
    ({ p1 with host := [.regWrite (Config.csrBase + 0x0C) 4 9] } : State).host =
      [.regWrite (Config.csrBase + 0x0C) 4 9] ∧
    ((0x04 : Word).toNat % 4 = 0 ∧ (0x04 : Word).toNat = 0x04) ∧
    ((0x14 : Word).toNat % 4 = 0 ∧ 0x14 ≤ (0x14 : Word).toNat) ∧
    ((0x28 : Word).toNat % 4 = 0 ∧ 0x14 ≤ (0x28 : Word).toNat) := ⟨rfl, by decide, by decide, by decide⟩

theorem witness_RegisterReads : (0x24 : Word).toNat % 4 = 0 ∧ (0x28 : Word).toNat % 4 = 0 ∧
    ({ p1 with host := [.regRead (Config.csrBase + 0x24) 4] } : State).host = [.regRead (Config.csrBase + 0x24) 4] :=
  ⟨by decide, by decide, rfl⟩

theorem witness_OddRegisterAccesses :
    ({ p1 with host := [.regWrite Config.csrBase 2 1] } : State).host = [.regWrite Config.csrBase 2 1] ∧ 2 ≠ 4 ∧
    (Config.csrBase + 1 - Config.csrBase).toNat % 4 ≠ 0 := by
  have h : (Config.csrBase + 1 - Config.csrBase).toNat = 1 := regOffset_add 1
  exact ⟨rfl, by decide, by rw [h]; decide⟩

/-- Idle and busy, by index and by address; whichever way the windows lie, an address is in one or not. -/
theorem witness_HostBufferAccesses :
    ({ State.reset with host := [.srcWrite (.index 0) 0x4B] } : State).host = [.srcWrite (.index 0) 0x4B] ∧
    ({ p1 with host := [.srcRead (.address 4)] } : State).host = [.srcRead (.address 4)] ∧
    State.reset.busy = false ∧ p1.busy = true ∧ 0 < Config.srcMaxBytes ∧
    (∀ w : Word, Config.srcWindow = some w → (w - w).toNat < Config.srcMaxBytes) :=
  have h : 0 < Config.srcMaxBytes := Nat.lt_of_lt_of_le Nat.one_pos (Nat.le_max_left 1 _)
  ⟨rfl, rfl, rfl, rfl, h, fun w _ => by rw [BitVec.sub_self]; exact h⟩

/-- A host read of SRC during a run is refused (R70; U5). -/
theorem test_srcRead_busy : step { p1 with host := [.srcRead (.index 0)] } = .refused .hostAccessWhileBusy := rfl

theorem witness_ResetInputAbandonsTheRun : ({ p1 with host := [.reset] } : State).host = [.reset] := rfl

/-- A step that would emit a record, and one that raises. -/
theorem witness_TracePortHoldsTheEngine :
    let s : State := { p1 with traceReady := false }
    let e : State := { p1 with traceReady := false, p := 40 }
    s.host = [] ∧ s.traceReady = false ∧ step s = .next s ∧ step { s with traceReady := true } = .next p1Next ∧
    step e = .next (nextOf (step e) e) ∧
    step { e with traceReady := true } = .next (nextOf (step { e with traceReady := true }) e) :=
  ⟨rfl, rfl, test_port_holds, p1_steps, eq_nextOf _ (by decide +kernel), eq_nextOf _ (by decide +kernel)⟩

theorem witness_TracePortHoldsTheEngine_acts :
    let s : State := { p1 with host := [.engine] }
    ({ p1 with host := [.traceReady false] } : State).host = [.traceReady false] ∧
    s.host = [.engine] ∧ step { s with host := [] } = .next p1Next := ⟨rfl, rfl, p1_steps⟩

end Sys2Proof.Tests
end

/-! ## What an element can do

`exec_cases` is the inversion of `exec`: an element that answers a next state has raised (`Raises`) or completed
(`Completes`), and each says the whole next state. Every statement about all elements is a case analysis on the two. -/

namespace Sys2Proof.Machine

/-- An element of format `f` raised: nothing has changed but for the raise, or a copy ran out of capacity and keeps the
bytes it wrote (60_exceptions.md R335, R336; 43_block_body.md R220). -/
inductive Raises (s : State) : Format → State → Prop
  | fault (f : Format) (err : ErrCode) (coded : err ≠ .none ∧ err ≠ .notGzip) : Raises s f (s.raise err (s.startFor f))
  | overflow (q : MatchPart) (dist : Nat) (begun : s.matchPart = some q) (back : 0 < dist ∧ dist ≤ s.outlen.toNat)
      (stopped : (s.copyMatch q.length.toNat dist).complete = false) :
      Raises s .dsym
        (({ s with
            dst := (s.copyMatch q.length.toNat dist).dst
            outlen := (s.copyMatch q.length.toNat dist).outlen } : State).raise .outputOverflow (s.startFor .dsym))

/-- The state after a repeat symbol has filled its code lengths (42_dynamic_trees.md R190). -/
def State.afterRepeat (s : State) (v : BitVec 4) (cnt rs width : Nat) (e : Word) : State :=
  (({ s with lens := fillLens v cnt s.num.toNat s.lens, num := s.num + BitVec.ofNat 9 cnt } : State).emit
    (.repeatCodeLength s.lensCategory (BitVec.ofNat 5 rs) (BitVec.ofNat 8 cnt) v
      (affectedSymbols s.num.toNat cnt) (spanAt e width))).closeLens

/-- An element completed: the guards it passed and the state it left, one constructor for each meaning. -/
inductive Completes (s : State) : Instr → State → Prop
  | bfinal (v : BitVec 1) (bits : s.hasBits [1].sum) :
      Completes s (.bfinal v)
        (({ s.advance [1] with bfinal := v, phase := .hdrBtype } : State).emit (.bfinal v (spanAt s.p 1)))
  | btypeStored (bits : s.hasBits [2].sum) :
      Completes s .btypeStored
        (({ s.advance [2] with btype := 0, phase := .storedHdr } : State).emit (.btype 0 (spanAt s.p 2)))
  | btypeFixed (bits : s.hasBits [2].sum) :
      Completes s .btypeFixed
        (({ s.advance [2] with btype := 1, active := 0, phase := .body } : State).emit (.btype 1 (spanAt s.p 2)))
  | btypeDynamic (bits : s.hasBits [2].sum) :
      Completes s .btypeDynamic
        (({ s.advance [2] with btype := 2, phase := .dynHlit } : State).emit (.btype 2 (spanAt s.p 2)))
  | storedHdr (len nlen : BitVec 16) (bits : s.hasBits (padOf s.p.toNat + 32)) (complement : len = ~~~nlen) :
      Completes s (.storedHdr len nlen)
        (({ s.alignToByte.advance [16, 16] with
            storedRem := len, phase := if len = 0 then .storedEnd else .storedData } : State).emit
          (.storedHeader (BitVec.ofNat 3 (padOf s.p.toNat)) len nlen (spanAt s.p (padOf s.p.toNat + 32))))
  | storedByte (byte : Byte) (bits : s.hasBits [8].sum) (room : s.outlen ≠ s.runC) :
      Completes s (.storedByte byte)
        { ((s.advance [8]).putByte byte).emit (.literal byte (spanAt s.p 8)) with
          storedRem := s.storedRem - 1, phase := if s.storedRem - 1 = 0 then .storedEnd else s.phase }
  | storedEnd : Completes s .storedEnd (s.emit (.blockEnd (spanAt s.p 0))).endBlock
  | hlit (v : BitVec 5) (bits : s.hasBits [5].sum) :
      Completes s (.hlit v)
        (({ s.advance [5] with hlit := hlitValue v, phase := .dynHdist } : State).emit
          (.hlit (hlitValue v) (spanAt s.p 5)))
  | hdist (v : BitVec 5) (bits : s.hasBits [5].sum) :
      Completes s (.hdist v)
        (({ s.advance [5] with hdist := hdistValue v, phase := .dynHclen } : State).emit
          (.hdist (hdistValue v) (spanAt s.p 5)))
  | hclen (v : BitVec 4) (bits : s.hasBits [4].sum) :
      Completes s (.hclen v)
        (({ s.advance [4] with
            hclen := hclenValue v, cllen := Vector.replicate 19 0, cli := 0, num := 0
            phase := .dynCllen } : State).emit
          (.hclen (hclenValue v) (spanAt s.p 4)))
  | cllen (v : BitVec 3) (bits : s.hasBits [3].sum) :
      Completes s (.cllen v)
        (({ s.advance [3] with
            cllen := s.cllen.setIfInBounds (orderAt s.cli.toNat) v, cli := s.cli + 1 } : State).emit
          (.codeLength .runLengthTable (BitVec.ofNat 9 (orderAt s.cli.toNat)) (v.setWidth 4)
            (spanAt s.p 3))).closeCllen
  | clLen (n : Nat) (len : BitVec 4) (bits : s.hasBits (codeReads n).sum) :
      Completes s (.clLen n len)
        (({ s.advance (codeReads n) with
            lens := s.lens.setIfInBounds s.num.toNat len, num := s.num + 1 } : State).emit
          (.codeLength s.lensCategory s.num len (spanAt s.p n))).closeLens
  | clRepPrev (n : Nat) (rep : BitVec 2) (bits : s.hasBits (codeReads n).sum) (previous : s.num ≠ 0)
      (extra : (s.advance (codeReads n)).hasBits [2].sum) (fits : s.num.toNat + repPrevCount rep ≤ s.totalLens) :
      Completes s (.clRepPrev n rep)
        (((s.advance (codeReads n)).advance [2]).afterRepeat s.previousLen (repPrevCount rep) 16 (n + 2) s.p)
  | clZeroShort (n : Nat) (rep : BitVec 3) (bits : s.hasBits (codeReads n ++ [3]).sum)
      (fits : s.num.toNat + zeroShortCount rep ≤ s.totalLens) :
      Completes s (.clZeroShort n rep)
        ((s.advance (codeReads n ++ [3])).afterRepeat 0 (zeroShortCount rep) 17 (n + 3) s.p)
  | clZeroLong (n : Nat) (rep : BitVec 7) (bits : s.hasBits (codeReads n ++ [7]).sum)
      (fits : s.num.toNat + zeroLongCount rep ≤ s.totalLens) :
      Completes s (.clZeroLong n rep)
        ((s.advance (codeReads n ++ [7])).afterRepeat 0 (zeroLongCount rep) 18 (n + 7) s.p)
  | lit (n : Nat) (byte : Byte) (bits : s.hasBits (codeReads n).sum) (room : s.outlen ≠ s.runC) :
      Completes s (.lit n byte)
        (((s.advance (codeReads n)).putByte byte).emit (.literal byte (spanAt s.p n)))
  | eob (n : Nat) (bits : s.hasBits (codeReads n).sum) :
      Completes s (.eob n)
        ((s.advance (codeReads n)).emit
          (.blockEnd (spanAt s.p
            (if s.bfinal = 1 then roundup8 (s.advance (codeReads n)).p.toNat - s.p.toNat else n)))).endBlock
  | length {i : Instr} {sym n lext : Nat} (view : i.asLength = some (sym, n, lext))
      (bits : s.hasBits (codeReads n ++ [lbits (sym - 257)]).sum) :
      Completes s i
        { s.advance (codeReads n ++ [lbits (sym - 257)]) with
          matchPart := some
            { start := s.p
              sym := BitVec.ofNat 9 sym
              extraAt := s.p + BitVec.ofNat 32 n
              extraBits := BitVec.ofNat 8 (lbits (sym - 257))
              length := BitVec.ofNat 9 (matchLength sym lext) } }
  | distance {i : Instr} {d n dext : Nat} {q : MatchPart} (view : i.asDistance = some (d, n, dext))
      (begun : s.matchPart = some q) (bits : s.hasBits (codeReads n ++ [dbits d]).sum)
      (back : 0 < matchDistance d dext ∧ matchDistance d dext ≤ s.outlen.toNat)
      (whole : (s.copyMatch q.length.toNat (matchDistance d dext)).complete = true) :
      Completes s i
        (({ s.advance (codeReads n ++ [dbits d]) with
            dst := (s.copyMatch q.length.toNat (matchDistance d dext)).dst
            outlen := (s.copyMatch q.length.toNat (matchDistance d dext)).outlen
            matchPart := none } : State).emit
          (.lz77 q.length q.sym { index := q.extraAt, length := q.extraBits }
            (BitVec.ofNat 16 (matchDistance d dext)) (BitVec.ofNat 5 d)
            (spanAt (s.p + BitVec.ofNat 32 n) (dbits d))
            (spanTo q.start (s.advance (codeReads n ++ [dbits d])).p)
            (s.copyMatch q.length.toNat (matchDistance d dext)).produced))

section
variable {s t : State} {f : Format} {i : Instr} {c : Prop}

/-- The two ends of an element, as the answer of one of its parts. -/
theorem reading_answers {ws : List Nat} {e : Word} {k : State → Res} (h : reading ws e s k = .next t)
    (he : e = s.startFor f)
    (hk : s.hasBits ws.sum → k (s.advance ws) = .next t → Raises s f t ∨ c) : Raises s f t ∨ c := by
  rcases reading_cases ws e s k with ⟨_, hr⟩ | ⟨hb, hr⟩
  · obtain rfl := Host.Outcome.next.inj (hr.symm.trans h)
    exact .inl (he ▸ .fault f .truncatedStream (by decide))
  · exact hk hb (hr.symm.trans h)

/-- A guard that raises, before what follows it. -/
theorem guard_answers {g : Prop} [Decidable g] {err : ErrCode} {e : Word} {r : Res}
    (h : (if g then .next (s.raise err e) else r) = .next t) (he : e = s.startFor f)
    (coded : err ≠ .none ∧ err ≠ .notGzip)
    (hr : ¬ g → r = .next t → Raises s f t ∨ c) : Raises s f t ∨ c := by
  by_cases hg : g
  · obtain rfl := Host.Outcome.next.inj ((if_pos hg).symm.trans h)
    exact .inl (he ▸ .fault f err coded)
  · exact hr hg ((if_neg hg).symm.trans h)

theorem repeatLens_answers {u : State} {v : BitVec 4} {cnt rs width : Nat} {e : Word}
    (h : repeatLens v cnt rs width e u = .next t) (he : e = s.startFor f)
    (hu : u.raise .invalidStream e = s.raise .invalidStream e)
    (hk : u.num.toNat + cnt ≤ u.totalLens → t = u.afterRepeat v cnt rs width e → Raises s f t ∨ c) :
    Raises s f t ∨ c := by
  rcases repeatLens_cases v cnt rs width e u with ⟨_, hr⟩ | ⟨hfits, hr⟩
  · obtain rfl := Host.Outcome.next.inj (hr.symm.trans h)
    exact .inl (hu ▸ he ▸ .fault f .invalidStream (by decide))
  · exact hk hfits (Host.Outcome.next.inj (hr.symm.trans h)).symm

theorem reservedSymbol_raises {n : Nat} {e : Word} (h : reservedSymbol n e s = .next t) (he : e = s.startFor f) :
    Raises s f t := by
  refine Or.elim (reading_answers (c := False) h he fun _ hk => ?_) id False.elim
  obtain rfl := Host.Outcome.next.inj hk
  exact .inl (he ▸ .fault f .invalidStream (by decide))

/-- Inside a back-reference the element start is that of its length code. -/
theorem startFor_dsym {q : MatchPart} (h : s.matchPart = some q) : s.startFor .dsym = q.start := by
  simp [State.startFor, State.elementStart, h]

theorem reservedDistance_raises {n : Nat} (h : reservedDistance n s = .next t) : Raises s .dsym t := by
  unfold reservedDistance at h
  split at h
  · cases h
  · rename_i q hq
    exact reservedSymbol_raises h (startFor_dsym hq).symm

theorem asLength_format {v : Nat × Nat × Nat} (h : i.asLength = some v) : i.format = .llsym := by
  cases i <;> first | rfl | cases h

theorem asDistance_format {v : Nat × Nat × Nat} (h : i.asDistance = some v) : i.format = .dsym := by
  cases i <;> first | rfl | cases h

theorem length_cases {sym n lext : Nat} (view : i.asLength = some (sym, n, lext)) (h : exec i s = .next t) :
    Raises s i.format t ∨ Completes s i t := by
  rw [(exec_of_asLength view s).1] at h
  rw [asLength_format view]
  exact reading_answers h rfl fun bits hk => .inr (Host.Outcome.next.inj hk ▸ .length view bits)

theorem distance_cases {d n dext : Nat} (view : i.asDistance = some (d, n, dext)) (h : exec i s = .next t) :
    Raises s i.format t ∨ Completes s i t := by
  rw [(exec_of_asDistance view s).1, distancePart] at h
  rw [asDistance_format view]
  split at h
  · cases h
  · rename_i q begun
    have start := (startFor_dsym begun).symm
    refine reading_answers h start fun bits hk => guard_answers hk start (by decide) fun near hk => ?_
    have back : 0 < matchDistance d dext ∧ matchDistance d dext ≤ s.outlen.toNat := by omega
    cases whole : (s.copyMatch q.length.toNat (matchDistance d dext)).complete with
    | true => exact .inr (Host.Outcome.next.inj ((if_pos whole).symm.trans hk) ▸ .distance view begun bits back whole)
    | false =>
      have hk := Host.Outcome.next.inj ((if_neg (by simp [whole])).symm.trans hk)
      exact .inl (hk ▸ start ▸ .overflow q _ begun back whole)

/-- Everything an element can do when it answers a next state. -/
theorem exec_cases (h : exec i s = .next t) : Raises s i.format t ∨ Completes s i t := by
  cases i <;>
    simp only [exec, execBfinal, execBtypeStored, execBtypeFixed, execBtypeDynamic, execBtypeReserved, blockType,
      execStoredHdr, execStoredByte, execStoredEnd, execHlit, execHlitReserved, execHdist, execHclen, execCllen,
      execClLen, execClRepPrev, execClZeroShort, execClZeroLong, execLit, execEob, execLitlenReserved286,
      execLitlenReserved287] at h
  case bfinal v => exact reading_answers h rfl fun bits hk => .inr (Host.Outcome.next.inj hk ▸ .bfinal v bits)
  case btypeStored => exact reading_answers h rfl fun bits hk => .inr (Host.Outcome.next.inj hk ▸ .btypeStored bits)
  case btypeFixed => exact reading_answers h rfl fun bits hk => .inr (Host.Outcome.next.inj hk ▸ .btypeFixed bits)
  case btypeDynamic => exact reading_answers h rfl fun bits hk => .inr (Host.Outcome.next.inj hk ▸ .btypeDynamic bits)
  case btypeReserved =>
    exact reading_answers h rfl fun _ hk =>
      .inl (Host.Outcome.next.inj hk ▸ .fault .f2 .invalidBlockType (by decide))
  case storedHdr len nlen =>
    exact guard_answers h rfl (by decide) fun bits hk => guard_answers hk rfl (by decide) fun complement hk =>
      .inr (Host.Outcome.next.inj hk ▸
        .storedHdr len nlen (Decidable.not_not.mp bits) (Decidable.not_not.mp complement))
  case storedByte byte =>
    exact reading_answers h rfl fun bits hk => guard_answers hk rfl (by decide) fun room hk =>
      .inr (Host.Outcome.next.inj hk ▸ .storedByte byte bits room)
  case storedEnd => exact .inr (Host.Outcome.next.inj h ▸ .storedEnd)
  case hlit v => exact reading_answers h rfl fun bits hk => .inr (Host.Outcome.next.inj hk ▸ .hlit v bits)
  case hlitReserved =>
    exact reading_answers h rfl fun _ hk => .inl (Host.Outcome.next.inj hk ▸ .fault .f5h .invalidStream (by decide))
  case hdist v => exact reading_answers h rfl fun bits hk => .inr (Host.Outcome.next.inj hk ▸ .hdist v bits)
  case hclen v => exact reading_answers h rfl fun bits hk => .inr (Host.Outcome.next.inj hk ▸ .hclen v bits)
  case cllen v => exact reading_answers h rfl fun bits hk => .inr (Host.Outcome.next.inj hk ▸ .cllen v bits)
  case clLen n len => exact reading_answers h rfl fun bits hk => .inr (Host.Outcome.next.inj hk ▸ .clLen n len bits)
  case clRepPrev n rep =>
    refine reading_answers h rfl fun bits hk => guard_answers hk rfl (by decide) fun previous hk => ?_
    rcases reading_cases [2] s.p (s.advance (codeReads n)) _ with ⟨_, hr⟩ | ⟨extra, hr⟩
    · exact .inl (Host.Outcome.next.inj (hr.symm.trans hk) ▸ .fault .clsym .truncatedStream (by decide))
    · exact repeatLens_answers (hr.symm.trans hk) rfl rfl fun fits ht =>
        .inr (ht ▸ .clRepPrev n rep bits previous extra fits)
  case clZeroShort n rep =>
    exact reading_answers h rfl fun bits hk => repeatLens_answers hk rfl rfl fun fits ht =>
      .inr (ht ▸ .clZeroShort n rep bits fits)
  case clZeroLong n rep =>
    exact reading_answers h rfl fun bits hk => repeatLens_answers hk rfl rfl fun fits ht =>
      .inr (ht ▸ .clZeroLong n rep bits fits)
  case lit n byte =>
    exact reading_answers h rfl fun bits hk => guard_answers hk rfl (by decide) fun room hk =>
      .inr (Host.Outcome.next.inj hk ▸ .lit n byte bits room)
  case eob n => exact reading_answers h rfl fun bits hk => .inr (Host.Outcome.next.inj hk ▸ .eob n bits)
  case litlenReserved286 => exact .inl (reservedSymbol_raises h rfl)
  case litlenReserved287 => exact .inl (reservedSymbol_raises h rfl)
  case distReserved30 => exact .inl (reservedDistance_raises h)
  case distReserved31 => exact .inl (reservedDistance_raises h)
  all_goals first
    | exact length_cases rfl h
    | exact distance_cases rfl h

/-- Everything one element of a step can do: its decode or its meaning raises, or the decoded element completes. -/
theorem runElement_cases (h : runElement f s = .next t) :
    Raises s f t ∨ ∃ i, DecodedAs f (s.p.toNat % 8) i ∧ Completes s i t := by
  unfold runElement at h
  split at h
  · rename_i i rest hd
    have decoded := (decode_ok hd).1
    refine (decoded.format ▸ exec_cases h).imp_right fun done => ⟨i, decoded, done⟩
  · rename_i err _
    cases err with
    | truncated => exact .inl (Host.Outcome.next.inj h ▸ .fault f .truncatedStream (by decide))
    | invalidCode => exact .inl (Host.Outcome.next.inj h ▸ .fault f .invalidCode (by decide))
    | noPreviousLength => exact .inl (Host.Outcome.next.inj h ▸ .fault f .invalidStream (by decide))
    | noTableEntry => cases h

end

end Sys2Proof.Machine

/-! ## What the outside can do, and what a step can do -/

namespace Sys2Proof.Machine

/-- What an act of the outside, other than letting the engine step, makes of the state. -/
inductive HostEffect (s : State) : State → Prop
  | start (idle : s.busy = false) : HostEffect s s.start
  | reset : HostEffect s s.applyReset
  | srcLen (v : Word) (idle : s.busy = false) (legal : v.toNat ≤ Config.srcMaxBytes) :
      HostEffect s { s with srcLen := v }
  | dstCap (v : Word) (idle : s.busy = false) (legal : v.toNat ≤ Config.dstCapMax) :
      HostEffect s { s with dstCap := v }
  | srcByte (i : Nat) (b : Byte) (idle : s.busy = false) (inside : i < Config.srcMaxBytes) :
      HostEffect s { s with src := s.src.write i b }
  | dstByte (i : Nat) (b : Byte) (idle : s.busy = false) (inside : i < Config.dstCapMax) :
      HostEffect s { s with dst := s.dst.write i b }
  | outside (ready : Bool) (data : Word) (k : Nat) :
      HostEffect s { s with traceReady := ready, readData := data, freeCount := k }

variable {s t : State}

theorem HostEffect.refl (s : State) : HostEffect s s := .outside s.traceReady s.readData s.freeCount

theorem writeReg_effect (r : Reg) (v : Word) : HostEffect s (s.writeReg r v) := by
  cases r
  case ctrl =>
    simp only [State.writeReg, State.writeCtrl]
    split
    · exact .start (And.right ‹_›)
    · exact .refl s
  case srcLen =>
    simp only [State.writeReg, State.writeSrcLen]
    split
    · exact .refl s
    · exact .srcLen v (by simp_all) (by simp_all)
  case dstCap =>
    simp only [State.writeReg, State.writeDstCap]
    split
    · exact .refl s
    · exact .dstCap v (by simp_all) (by simp_all)
  all_goals exact .refl s

theorem regWrite_effect {addr : Word} {bytes : Nat} {v : Word} (h : regWrite addr bytes v s = .next t) :
    HostEffect s t := by
  unfold regWrite at h
  split at h
  · split at h
    · exact Host.Outcome.next.inj h ▸ writeReg_effect _ v
    · exact Host.Outcome.next.inj h ▸ .refl s
  · cases h

theorem regRead_effect {addr : Word} {bytes : Nat} (h : regRead addr bytes s = .next t) : HostEffect s t := by
  unfold regRead at h
  split at h
  · split at h
    · exact Host.Outcome.next.inj h ▸ .outside _ _ _
    · exact Host.Outcome.next.inj h ▸ .outside _ _ _
  · exact Host.Outcome.next.inj h ▸ .outside _ _ _

/-- An access to a buffer that answers touched nothing, or a byte the buffer has, outside a run. -/
theorem hostBuffer_effect {window : Option Word} {size : Nat} {place : HostPlace} {k : Nat → Res}
    (h : hostBuffer window size place s k = .next t)
    (hk : ∀ i, s.busy = false → i < size → k i = .next t → HostEffect s t) : HostEffect s t := by
  rcases hostBuffer_cases window size place s k with ⟨_, e⟩ | ⟨i, _, ⟨_, e⟩ | ⟨idle, inside, e⟩ | ⟨_, _, e⟩⟩
  · exact Host.Outcome.next.inj (e.symm.trans h) ▸ .refl s
  · cases e.symm.trans h
  · exact hk i idle inside (e.symm.trans h)
  · cases e.symm.trans h

/-- Everything an act of the outside can do when it answers a next state. -/
theorem perform_cases {a : HostAct} (h : perform a s = .next t) : engineStep s = .next t ∨ HostEffect s t := by
  cases a with
  | regWrite => exact .inr (regWrite_effect h)
  | regRead => exact .inr (regRead_effect h)
  | srcWrite _ b =>
    exact .inr (hostBuffer_effect h fun i idle inside hk => Host.Outcome.next.inj hk ▸ .srcByte i b idle inside)
  | srcRead => exact .inr (hostBuffer_effect h fun _ _ _ hk => Host.Outcome.next.inj hk ▸ .outside _ _ _)
  | dstWrite _ b =>
    exact .inr (hostBuffer_effect h fun i idle inside hk => Host.Outcome.next.inj hk ▸ .dstByte i b idle inside)
  | dstRead => exact .inr (hostBuffer_effect h fun _ _ _ hk => Host.Outcome.next.inj hk ▸ .outside _ _ _)
  | traceReady ready => exact .inr (Host.Outcome.next.inj h ▸ .outside ready _ _)
  | reset => exact .inr (Host.Outcome.next.inj h ▸ .reset)
  | engine => exact .inl h

/-- An invariant of every step: it does not speak of the outside's plans, each effect of the outside keeps it, and each
element step does. -/
theorem step_keeps {P : State → Prop} (plans : ∀ u acts, P u → P (u.withHost acts))
    (host : ∀ u v, P u → HostEffect u v → P v) (element : ∀ u v, P u → elementStep u = .next v → P v)
    (hs : P s) (h : step s = .next t) : P t := by
  have engine : ∀ u, P u → engineStep u = .next t → P t := fun u hu he => by
    rcases gate_next he with hr | ⟨rfl, _⟩
    · exact element u t hu hr
    · exact hu
  cases acts : s.host with
  | nil => exact engine s hs (step_engine acts ▸ h)
  | cons a rest =>
    rcases perform_cases (step_host acts ▸ h) with he | he
    · exact engine _ (plans s rest hs) he
    · exact host _ t (plans s rest hs) he

/-- An invariant of every element step that each element keeps by itself. -/
theorem elementStep_keeps {P : State → Prop} (run : ∀ f u v, P u → runElement f u = .next v → P v)
    (hs : P s) (h : elementStep s = .next t) : P t := by
  rcases elementStep_cases h with ⟨_, rfl⟩ | ⟨f, _, hr, _⟩ | ⟨u, _, _, hl, _, hd⟩
  · exact hs
  · exact run f s t hs hr
  · exact run .dsym u t (run .llsym s u hs hl) hd

end Sys2Proof.Machine

/-! ## The state's own statements: reset, frames and the trace counter -/

namespace Sys2Proof.Machine

/-- Settles O1: the fields are those of the literal `State.reset`, and each register reads one of them. -/
theorem resetLeavesIdleEngine : Obligations.ResetLeavesIdleEngine := by
  unfold Obligations.ResetLeavesIdleEngine
  refine ⟨rfl, rfl, rfl, rfl, rfl, rfl, rfl, rfl, rfl, rfl, rfl, rfl, rfl, rfl, rfl, rfl, rfl, rfl, rfl, fun r => ?_⟩
  cases r <;> rfl

/-- Settles O42: every register is 0, both memories are empty, and IDLE asks nothing of the registers. -/
theorem resetMeetsTheEngineInvariant : Obligations.ResetMeetsTheEngineInvariant :=
  { srcWf := Memory.wf_nil
    dstWf := Memory.wf_nil
    posInSrc := by decide
    runNBound := by decide
    srcLenBound := by decide
    outInDst := by decide
    btypeOk := by decide
    noMatch := rfl
    phaseOk := trivial }

variable {s t : State} {f : Format} {i : Instr}

/-- Settles O38: a raise keeps the registers, and each completion names in its next state what its rule writes. -/
theorem registersAreWrittenOnlyByTheirElements : Obligations.RegistersAreWrittenOnlyByTheirElements := by
  unfold Obligations.RegistersAreWrittenOnlyByTheirElements
  intro s t i h
  rcases exec_cases h with raised | done
  · generalize i.format = f at raised ⊢
    cases raised <;> simp
  · cases done with
    | length view => simp [asLength_format view]
    | distance view => simp [asDistance_format view]
    | _ => simp [Instr.format, State.afterRepeat]

/-- TRACE_COUNT agrees with TRACE (10_state.md R38). -/
def State.Counted (s : State) : Prop := s.traceCount = BitVec.ofNat 32 s.trace.length

theorem State.Counted.of_same (hs : s.Counted) (ht : t.trace = s.trace) (hc : t.traceCount = s.traceCount) :
    t.Counted := by
  rw [State.Counted, ht, hc]
  exact hs

theorem State.Counted.of_emitted {r : TraceRecord} (hs : s.Counted) (ht : t.trace = s.trace ++ [r])
    (hc : t.traceCount = s.traceCount + 1) : t.Counted := by
  rw [State.Counted, ht, hc, hs]
  simp [BitVec.ofNat_add]

theorem Raises.trace_eq (h : Raises s f t) : t.trace = s.trace ∧ t.traceCount = s.traceCount := by
  cases h <;> exact ⟨rfl, rfl⟩

/-- A completed element emits one record, but for a length part, which emits none (45_trace.md R270). -/
theorem Completes.trace_cases (h : Completes s i t) :
    (t.trace = s.trace ∧ t.traceCount = s.traceCount) ∨
      ∃ r, t.trace = s.trace ++ [r] ∧ t.traceCount = s.traceCount + 1 := by
  cases h with
  | length => exact .inl ⟨rfl, rfl⟩
  | _ => exact .inr ⟨_, by simp [State.afterRepeat]; rfl, by simp [State.afterRepeat]⟩

theorem runElement_counted (hs : s.Counted) (h : runElement f s = .next t) : t.Counted := by
  rcases runElement_cases h with raised | ⟨i, _, done⟩
  · exact hs.of_same raised.trace_eq.1 raised.trace_eq.2
  · rcases done.trace_cases with ⟨ht, hc⟩ | ⟨r, ht, hc⟩
    · exact hs.of_same ht hc
    · exact hs.of_emitted ht hc

theorem HostEffect.counted (h : HostEffect s t) (hs : s.Counted) : t.Counted := by
  cases h with
  | start => rfl
  | reset => rfl
  | _ => exact hs

/-- Settles O45: each element that emits counts one, and no act of the outside emits. -/
theorem traceCountIsTheLength : Obligations.TraceCountIsTheLength := fun _ _ h hs =>
  step_keeps (P := State.Counted) (fun _ _ hu => hu) (fun _ _ hu he => he.counted hu)
    (fun _ _ hu he => elementStep_keeps (fun _ _ _ => runElement_counted) hu he) hs h

end Sys2Proof.Machine

/-! ## The engine invariant

Between the two halves of a back-reference the state does not meet `State.Inv`, since a length part is in hand. The
elements are therefore shown to keep the invariant of the state with that part forgotten, and the part is followed on
its own. This section has what the phases ask of their registers. -/

namespace Sys2Proof.Machine

variable {s t : State} {f : Format} {i : Instr}

/-! ### Where the phase selects the format -/

theorem elementFormat_phase (h : s.elementFormat = some f) : phaseOf f = s.phase := by
  cases e : s.phase
  case body =>
    simp only [State.elementFormat, e] at h
    split at h <;> cases h <;> rfl
  all_goals
    rw [State.elementFormat, e] at h
    cases h <;> rfl

/-- Between steps no element is a distance part. -/
theorem elementFormat_ne_dsym (hs : s.matchPart = none) (h : s.elementFormat = some f) : f ≠ .dsym := by
  rintro rfl
  unfold State.elementFormat at h
  split at h <;> simp [hs] at h

/-! ### What each phase asks -/

theorem phaseOk_storedData (h : s.phase = .storedData) : s.PhaseOk ↔ s.storedRem ≠ 0 ∧ s.p.toNat % 8 = 0 := by
  simp only [State.PhaseOk, h]

theorem phaseOk_storedEnd (h : s.phase = .storedEnd) : s.PhaseOk ↔ s.p.toNat % 8 = 0 := by
  simp only [State.PhaseOk, h]

theorem phaseOk_dynHdist (h : s.phase = .dynHdist) : s.PhaseOk ↔ s.HlitOk := by
  simp only [State.PhaseOk, h]

theorem phaseOk_dynHclen (h : s.phase = .dynHclen) : s.PhaseOk ↔ s.HlitOk ∧ s.HdistOk := by
  simp only [State.PhaseOk, h]

theorem phaseOk_dynCllen (h : s.phase = .dynCllen) :
    s.PhaseOk ↔ s.HlitOk ∧ s.HdistOk ∧ s.HclenOk ∧ s.cli.toNat < s.hclen.toNat := by
  simp only [State.PhaseOk, h]

theorem phaseOk_dynLens (h : s.phase = .dynLens) :
    s.PhaseOk ↔ s.HlitOk ∧ s.HdistOk ∧ s.num.toNat < s.totalLens ∧ s.clt.tree.Legal 19 := by
  simp only [State.PhaseOk, h]

theorem phaseOk_body (h : s.phase = .body) :
    s.PhaseOk ↔ s.active = 0 ∨ (s.dlt.tree.Legal 286 ∧ s.ddt.tree.Legal 32) := by
  simp only [State.PhaseOk, h]

/-! ### The registers of the phases, element by element -/

theorem hlitValue_range {v : BitVec 5} (h : v.toNat < 30) : 257 ≤ (hlitValue v).toNat ∧ (hlitValue v).toNat ≤ 286 := by
  simp only [hlitValue, BitVec.toNat_ofNat]
  omega

theorem hdistValue_range (v : BitVec 5) : 1 ≤ (hdistValue v).toNat ∧ (hdistValue v).toNat ≤ 32 := by
  simp only [hdistValue, BitVec.toNat_ofNat]
  omega

theorem hclenValue_range (v : BitVec 4) : 4 ≤ (hclenValue v).toNat ∧ (hclenValue v).toNat ≤ 19 := by
  simp only [hclenValue, BitVec.toNat_ofNat]
  omega

/-- A build of no more lengths than the table memory has entries leaves a legal tree in it (41_huffman.md R158). -/
theorem TreeTable.store_build_legal {cw sw size : Nat} (m : TreeTable cw sw size) (lengths : List Nat)
    (h : lengths.length ≤ size) (hb : size ≤ 320) (hc : size < 2 ^ cw) (hw : size ≤ 2 ^ sw) :
    (m.store (build lengths)).tree.Legal size := by
  rw [m.store_build lengths h hb hc hw]
  exact build_legal lengths size h hb

theorem length_litLens_le (h : s.HlitOk) : s.litLens.length ≤ 286 := by
  simp only [State.litLens, List.length_take]
  omega

theorem length_distLens_le (h : s.HdistOk) : s.distLens.length ≤ 32 := by
  simp only [State.distLens, List.length_take]
  omega

/-- The end of a code-length step: short of TOT the phase stays, and at TOT both trees are built (42_dynamic_trees.md
R185, R192). -/
theorem closeLens_phaseOk (hphase : s.phase = .dynLens) (hlit : s.HlitOk) (hdist : s.HdistOk)
    (hnum : s.num.toNat ≤ s.totalLens) (hclt : s.clt.tree.Legal 19) : s.closeLens.PhaseOk := by
  rcases closeLens_cases s with ⟨_, e⟩ | ⟨hne, e⟩ <;> rw [e]
  · exact (phaseOk_body rfl).mpr (.inr
      ⟨s.dlt.store_build_legal _ (length_litLens_le hlit) (by decide) (by decide) (by decide),
        s.ddt.store_build_legal _ (length_distLens_le hdist) (by decide) (by decide) (by decide)⟩)
  · exact (phaseOk_dynLens hphase).mpr ⟨hlit, hdist, Nat.lt_of_le_of_ne hnum hne, hclt⟩

/-- The end of a CLLEN step: short of HCLEN the phase stays, and at HCLEN the code-length tree is built
(42_dynamic_trees.md R183). -/
theorem closeCllen_phaseOk (hphase : s.phase = .dynCllen) (hlit : s.HlitOk) (hdist : s.HdistOk) (hhclen : s.HclenOk)
    (hcli : s.cli.toNat ≤ s.hclen.toNat) : s.closeCllen.PhaseOk := by
  rcases closeCllen_cases s with ⟨_, e⟩ | ⟨hne, e⟩ <;> rw [e]
  · have nonempty : 0 < s.totalLens :=
      Nat.lt_of_lt_of_le (Nat.lt_of_lt_of_le (by decide) hlit.1) (Nat.le_add_right _ _)
    exact (phaseOk_dynLens rfl).mpr
      ⟨hlit, hdist, nonempty, s.clt.store_build_legal _ (by simp) (by decide) (by decide) (by decide)⟩
  · exact (phaseOk_dynCllen hphase).mpr
      ⟨hlit, hdist, hhclen, Nat.lt_of_le_of_ne hcli fun e => hne (BitVec.eq_of_toNat_eq e)⟩

/-- A repeat that stays within TOT keeps the registers of its phase. -/
theorem afterRepeat_phaseOk {v : BitVec 4} {cnt rs width : Nat} {e : Word} (hphase : s.phase = .dynLens)
    (hlit : s.HlitOk) (hdist : s.HdistOk) (fits : s.num.toNat + cnt ≤ s.totalLens) (hclt : s.clt.tree.Legal 19) :
    (s.afterRepeat v cnt rs width e).PhaseOk := by
  refine closeLens_phaseOk hphase hlit hdist ?_ hclt
  refine Nat.le_trans ?_ fits
  simp only [State.emit_num, BitVec.toNat_add, BitVec.toNat_ofNat]
  omega

/-- An element of a block body that leaves ACTIVE and the trees alone. -/
theorem body_phaseOk (hphase : s.phase = .body) (hs : s.PhaseOk) (htphase : t.phase = .body)
    (hactive : t.active = s.active) (hdlt : t.dlt = s.dlt) (hddt : t.ddt = s.ddt) : t.PhaseOk := by
  rw [phaseOk_body htphase, hactive, hdlt, hddt]
  exact (phaseOk_body hphase).mp hs

/-- The phases a block's end leads to ask nothing. -/
theorem endBlock_phaseOk (s : State) : s.endBlock.PhaseOk := by
  have ended : s.endBlock.phase = .done ∨ s.endBlock.phase = .hdrBfinal := by
    rw [State.endBlock_phase]
    split <;> simp
  rcases ended with h | h <;> simp only [State.PhaseOk, h]

/-- Every element of the phase's format keeps what the phases ask of the registers. -/
theorem Completes.phaseOk (h : Completes s i t) (hphase : phaseOf i.format = s.phase) (hwf : i.wellFormed = true)
    (hs : s.PhaseOk) : t.PhaseOk := by
  cases h with
  | bfinal => trivial
  | btypeStored => trivial
  | btypeFixed => exact (phaseOk_body rfl).mpr (.inl rfl)
  | btypeDynamic => trivial
  | storedHdr len =>
    have aligned : (s.alignToByte.advance [16, 16]).p.toNat % 8 = 0 := by
      simp [padOf]
      omega
    by_cases hlen : len = 0
    · exact (phaseOk_storedEnd (if_pos hlen)).mpr aligned
    · exact (phaseOk_storedData (if_neg hlen)).mpr ⟨hlen, aligned⟩
  | storedByte =>
    obtain ⟨_, aligned⟩ := (phaseOk_storedData hphase.symm).mp hs
    have aligned' : (s.advance [8]).p.toNat % 8 = 0 := by
      simp
      omega
    by_cases hrem : s.storedRem - 1 = 0
    · exact (phaseOk_storedEnd (if_pos hrem)).mpr aligned'
    · exact (phaseOk_storedData ((if_neg hrem).trans hphase.symm)).mpr ⟨hrem, aligned'⟩
  | storedEnd => exact endBlock_phaseOk _
  | hlit v => exact (phaseOk_dynHdist rfl).mpr (hlitValue_range (by simpa [Instr.wellFormed] using hwf))
  | hdist v => exact (phaseOk_dynHclen rfl).mpr ⟨(phaseOk_dynHdist hphase.symm).mp hs, hdistValue_range v⟩
  | hclen v =>
    obtain ⟨hlit, hdist⟩ := (phaseOk_dynHclen hphase.symm).mp hs
    exact (phaseOk_dynCllen rfl).mpr
      ⟨hlit, hdist, hclenValue_range v, Nat.lt_of_lt_of_le (Nat.succ_pos 3) (hclenValue_range v).1⟩
  | cllen =>
    obtain ⟨hlit, hdist, hhclen, hcli⟩ := (phaseOk_dynCllen hphase.symm).mp hs
    refine closeCllen_phaseOk hphase.symm hlit hdist hhclen ?_
    simp only [State.emit_cli, State.emit_hclen, State.advance_hclen, BitVec.toNat_add]
    exact Nat.le_trans (Nat.mod_le _ _) hcli
  | clLen =>
    obtain ⟨hlit, hdist, hnum, hclt⟩ := (phaseOk_dynLens hphase.symm).mp hs
    refine closeLens_phaseOk hphase.symm hlit hdist ?_ hclt
    simp only [State.emit_num, BitVec.toNat_add]
    exact Nat.le_trans (Nat.mod_le _ _) hnum
  | clRepPrev _ _ _ _ _ fits =>
    obtain ⟨hlit, hdist, _, hclt⟩ := (phaseOk_dynLens hphase.symm).mp hs
    exact afterRepeat_phaseOk hphase.symm hlit hdist fits hclt
  | clZeroShort _ _ _ fits =>
    obtain ⟨hlit, hdist, _, hclt⟩ := (phaseOk_dynLens hphase.symm).mp hs
    exact afterRepeat_phaseOk hphase.symm hlit hdist fits hclt
  | clZeroLong _ _ _ fits =>
    obtain ⟨hlit, hdist, _, hclt⟩ := (phaseOk_dynLens hphase.symm).mp hs
    exact afterRepeat_phaseOk hphase.symm hlit hdist fits hclt
  | lit => exact body_phaseOk hphase.symm hs hphase.symm rfl rfl rfl
  | eob => exact endBlock_phaseOk _
  | length view =>
    rw [asLength_format view] at hphase
    exact body_phaseOk hphase.symm hs hphase.symm rfl rfl rfl
  | distance view =>
    rw [asDistance_format view] at hphase
    exact body_phaseOk hphase.symm hs hphase.symm rfl rfl rfl

end Sys2Proof.Machine

/-! ## The buffered reader

Each read of the reader keeps it coherent with P where the bits it consumes are there (40_bitcursor.md R128 to R130),
and a completed element reads nothing else: `Completes.reads`. -/

namespace Sys2Proof.Machine

/-! ### Refill, read and alignment -/

section
variable {c : BitCursor} {src : Memory} {n p : Nat}

/-- The refill loop keeps the reader coherent, and stops at the threshold, at the end of the source or after its
turns (40_bitcursor.md R128). -/
theorem BitCursor.refillLoop_coherent (hn : n < 2 ^ 29) (turns : Nat) (h : c.Coherent src n p) :
    (c.refillLoop src n turns).Coherent src n p ∧
      (24 ≤ (c.refillLoop src n turns).bitCnt.toNat ∨ (c.refillLoop src n turns).srcIdx.toNat = n ∨
        c.bitCnt.toNat + 8 * turns ≤ (c.refillLoop src n turns).bitCnt.toNat) := by
  induction turns generalizing c with
  | zero => exact ⟨h, .inr (.inr (Nat.le_refl _))⟩
  | succ turns ih =>
    unfold BitCursor.refillLoop
    by_cases hc : c.bitCnt.toNat < Config.refillThreshold ∧ c.srcIdx.toNat < n
    · rw [if_pos hc]
      obtain ⟨loaded, hcnt, _⟩ := BitCursor.load_coherent hn h hc.1 hc.2
      obtain ⟨coherent, stop⟩ := ih loaded
      exact ⟨coherent, by omega⟩
    · rw [if_neg hc]
      have := h.loaded
      simp only [Config.refillThreshold] at hc
      exact ⟨h, by omega⟩

/-- After a refill the reader holds the threshold of 24 bits or has loaded the whole source. -/
theorem BitCursor.refill_coherent (hn : n < 2 ^ 29) (h : c.Coherent src n p) :
    (c.refill src n).Coherent src n p ∧ (24 ≤ (c.refill src n).bitCnt.toNat ∨ (c.refill src n).srcIdx.toNat = n) := by
  obtain ⟨coherent, stop⟩ := refillLoop_coherent hn 3 h
  refine ⟨coherent, ?_⟩
  unfold BitCursor.refill
  omega

/-- Dropping `w` buffered bits moves the reader by `w` (40_bitcursor.md R129). -/
theorem BitCursor.Coherent.consume (h : c.Coherent src n p) {w : Nat} (hw : w ≤ c.bitCnt.toNat) :
    BitCursor.Coherent { c with bitBuf := c.bitBuf >>> w, bitCnt := c.bitCnt - BitVec.ofNat 5 w } src n (p + w) := by
  have hcnt : (c.bitCnt - BitVec.ofNat 5 w).toNat = c.bitCnt.toNat - w := by
    have := c.bitCnt.isLt
    rw [BitVec.toNat_sub_of_le (by rw [BitVec.le_def, BitVec.toNat_ofNat]; omega), BitVec.toNat_ofNat,
      Nat.mod_eq_of_lt (by omega)]
  have := h.position
  refine ⟨by simp only [hcnt]; omega, h.loaded, fun k hk => ?_⟩
  simp only [hcnt, BitVec.getLsbD_ushiftRight]
  by_cases hin : w + k < 32
  · rw [h.buffer _ hin, Nat.add_assoc]
    congr 1
    exact decide_eq_decide.mpr (by omega)
  · have := c.bitCnt.isLt
    rw [BitVec.getLsbD_of_ge _ _ (by omega), decide_eq_false (by omega), Bool.false_and]

/-- A read of `w` bits that are there keeps the reader coherent (40_bitcursor.md R124, R129). -/
theorem BitCursor.skip_coherent (hn : n < 2 ^ 29) {w : Nat} (hw : w ≤ 16) (hb : p + w ≤ 8 * n)
    (h : c.Coherent src n p) : (c.skip src n w).Coherent src n (p + w) := by
  unfold BitCursor.skip
  by_cases h0 : w = 0
  · simpa [h0] using h
  · obtain ⟨coherent, stop⟩ := refill_coherent hn h
    have := coherent.position
    have enough : w ≤ (c.refill src n).bitCnt.toNat := by omega
    simpa [h0, BitCursor.read, Nat.not_lt.mpr enough] using coherent.consume enough

/-- So do the reads of several fields. -/
theorem BitCursor.skips_coherent (hn : n < 2 ^ 29) (ws : List Nat) (hw : ∀ w ∈ ws, w ≤ 16) (hb : p + ws.sum ≤ 8 * n)
    (h : c.Coherent src n p) : (ws.foldl (BitCursor.skip src n) c).Coherent src n (p + ws.sum) := by
  induction ws generalizing c p with
  | nil => exact h
  | cons w ws ih =>
    rw [List.sum_cons] at hb ⊢
    rw [List.foldl_cons, ← Nat.add_assoc]
    exact ih (fun x hx => hw x (List.mem_cons_of_mem _ hx)) (by omega)
      (skip_coherent hn (hw w List.mem_cons_self) (by omega) h)

/-- The alignment with its push-back moves the reader to the byte boundary (40_bitcursor.md R130). -/
theorem BitCursor.align_coherent (h : c.Coherent src n p) : c.align.Coherent src n (p + padOf p) := by
  have hpos := h.position
  have hloaded := h.loaded
  have hidx : c.align.srcIdx.toNat = c.srcIdx.toNat - c.bitCnt.toNat / 8 := by
    have := c.srcIdx.isLt
    have := c.bitCnt.isLt
    simp only [BitCursor.align, BitVec.toNat_sub, BitVec.toNat_ofNat]
    omega
  refine ⟨?_, by omega, fun k _ => by simp [BitCursor.align]⟩
  rw [hidx]
  change p + padOf p + 0 = _
  unfold padOf
  omega

/-- The reader at START (46_host_interface.md R303). -/
theorem BitCursor.start_coherent (src : Memory) (n : Nat) :
    BitCursor.Coherent { srcIdx := 0, bitBuf := 0, bitCnt := 0 } src n 0 :=
  ⟨rfl, Nat.zero_le _, fun k _ => by simp⟩

end

/-! ### The reads of an element -/

/-- From `s` to `t` stream bits were consumed and nothing else of the reader or its source has changed: P stays within
the source and the reader stays coherent with it. -/
structure Reads (s t : State) : Prop where
  src : t.src = s.src
  runN : t.runN = s.runN
  pos : s.p.toNat ≤ 8 * s.runN.toNat → t.p.toNat ≤ 8 * s.runN.toNat
  coherent : s.cursor.Coherent s.src s.runN.toNat s.p.toNat → t.cursor.Coherent s.src s.runN.toNat t.p.toNat

variable {s t u : State} {i : Instr}

theorem Reads.refl (s : State) : Reads s s := ⟨rfl, rfl, id, id⟩

theorem Reads.trans (h : Reads s t) (h' : Reads t u) : Reads s u := by
  obtain ⟨src, runN, pos, coherent⟩ := h'
  rw [h.src, h.runN] at *
  exact ⟨src, runN, pos ∘ h.pos, coherent ∘ h.coherent⟩

/-- An update of other fields reads nothing. -/
theorem Reads.congr (h : Reads s t) (src : u.src = t.src) (runN : u.runN = t.runN) (p : u.p = t.p)
    (cursor : u.cursor = t.cursor) : Reads s u := by
  obtain ⟨hsrc, hrunN, pos, coherent⟩ := h
  rw [← src, ← runN, ← p, ← cursor] at *
  exact ⟨hsrc, hrunN, pos, coherent⟩

theorem reads_advance (hn : s.runN.toNat < 2 ^ 29) {ws : List Nat} (hw : ∀ w ∈ ws, w ≤ 16)
    (bits : s.hasBits ws.sum) : Reads s (s.advance ws) := by
  refine ⟨rfl, rfl, fun _ => ?_, fun h => ?_⟩ <;> rw [advance_toNat hn bits]
  · exact bits
  · exact BitCursor.skips_coherent hn ws hw bits h

theorem alignToByte_toNat (hn : s.runN.toNat < 2 ^ 29) (bits : s.hasBits (padOf s.p.toNat)) :
    s.alignToByte.p.toNat = s.p.toNat + padOf s.p.toNat := by
  simp only [State.hasBits] at bits
  simp only [State.alignToByte_p, BitVec.toNat_add, BitVec.toNat_ofNat]
  omega

theorem reads_alignToByte (hn : s.runN.toNat < 2 ^ 29) (bits : s.hasBits (padOf s.p.toNat)) :
    Reads s s.alignToByte := by
  refine ⟨rfl, rfl, fun _ => ?_, fun h => ?_⟩ <;> rw [alignToByte_toNat hn bits]
  · exact bits
  · exact BitCursor.align_coherent h

/-- A stored header's alignment and its two fields (44_block_machine.md R244). -/
theorem reads_storedHdr (hn : s.runN.toNat < 2 ^ 29) (bits : s.hasBits (padOf s.p.toNat + 32)) :
    Reads s (s.alignToByte.advance [16, 16]) := by
  have pad : s.hasBits (padOf s.p.toNat) := Nat.le_trans (by omega) bits
  refine (reads_alignToByte hn pad).trans (reads_advance (s := s.alignToByte) hn (by simp) ?_)
  rw [State.hasBits, alignToByte_toNat hn pad, Nat.add_assoc]
  exact bits

theorem lbits_le (k : Nat) : lbits k ≤ 5 := by
  unfold lbits
  rw [List.getD_eq_getElem?_getD]
  rcases h : lengthRows[k]? with _ | row
  · simp
  · exact (show ∀ r ∈ lengthRows, r.1 ≤ 5 by decide) row (List.mem_of_getElem? h)

theorem dbits_le (d : Nat) : dbits d ≤ 13 := by
  unfold dbits
  rw [List.getD_eq_getElem?_getD]
  rcases h : distanceRows[d]? with _ | row
  · simp
  · exact (show ∀ r ∈ distanceRows, r.1 ≤ 13 by decide) row (List.mem_of_getElem? h)

theorem codeReads_width {n w : Nat} (h : w ∈ codeReads n) : w ≤ 16 := by
  rw [codeReads, List.mem_replicate] at h
  omega

/-- A code is read bit by bit (41_huffman.md R155). -/
theorem reads_code (hn : s.runN.toNat < 2 ^ 29) {n : Nat} (bits : s.hasBits (codeReads n).sum) :
    Reads s (s.advance (codeReads n)) :=
  reads_advance hn (fun _ => codeReads_width) bits

/-- A code and the extra bits after it. -/
theorem reads_codeThen (hn : s.runN.toNat < 2 ^ 29) {n x : Nat} (hx : x ≤ 16)
    (bits : s.hasBits (codeReads n ++ [x]).sum) : Reads s (s.advance (codeReads n ++ [x])) := by
  refine reads_advance hn (fun w hw => ?_) bits
  rcases List.mem_append.mp hw with hw | hw
  · exact codeReads_width hw
  · exact List.mem_singleton.mp hw ▸ hx

theorem Reads.afterRepeat (h : Reads s t) (v : BitVec 4) (cnt rs width : Nat) (e : Word) :
    Reads s (t.afterRepeat v cnt rs width e) := by
  refine h.congr ?_ ?_ ?_ ?_ <;> simp [State.afterRepeat]

/-- Everything a completed element does to P and to the reader is to read its bits. -/
theorem Completes.reads (h : Completes s i t) (hn : s.runN.toNat < 2 ^ 29) : Reads s t := by
  cases h with
  | bfinal _ bits => exact (reads_advance hn (by simp) bits).congr rfl rfl rfl rfl
  | btypeStored bits => exact (reads_advance hn (by simp) bits).congr rfl rfl rfl rfl
  | btypeFixed bits => exact (reads_advance hn (by simp) bits).congr rfl rfl rfl rfl
  | btypeDynamic bits => exact (reads_advance hn (by simp) bits).congr rfl rfl rfl rfl
  | storedHdr _ _ bits => exact (reads_storedHdr hn bits).congr rfl rfl rfl rfl
  | storedByte _ bits => exact (reads_advance hn (by simp) bits).congr rfl rfl rfl rfl
  | storedEnd => exact (Reads.refl s).congr rfl rfl rfl rfl
  | hlit _ bits => exact (reads_advance hn (by simp) bits).congr rfl rfl rfl rfl
  | hdist _ bits => exact (reads_advance hn (by simp) bits).congr rfl rfl rfl rfl
  | hclen _ bits => exact (reads_advance hn (by simp) bits).congr rfl rfl rfl rfl
  | cllen _ bits => refine (reads_advance hn (by simp) bits).congr ?_ ?_ ?_ ?_ <;> simp
  | clLen _ _ bits => refine (reads_code hn bits).congr ?_ ?_ ?_ ?_ <;> simp
  | clRepPrev n _ bits _ extra =>
    exact ((reads_code hn bits).trans (reads_advance (s := s.advance (codeReads n)) hn (by simp) extra)).afterRepeat ..
  | clZeroShort _ _ bits => exact (reads_codeThen hn (by decide) bits).afterRepeat ..
  | clZeroLong _ _ bits => exact (reads_codeThen hn (by decide) bits).afterRepeat ..
  | lit _ _ bits => exact (reads_code hn bits).congr rfl rfl rfl rfl
  | eob _ bits => exact (reads_code hn bits).congr rfl rfl rfl rfl
  | length _ bits => exact (reads_codeThen hn (Nat.le_trans (lbits_le _) (by decide)) bits).congr rfl rfl rfl rfl
  | distance _ _ bits => exact (reads_codeThen hn (Nat.le_trans (dbits_le _) (by decide)) bits).congr rfl rfl rfl rfl

end Sys2Proof.Machine

/-! ## Every step keeps the invariant, and the reader coherent with P -/

namespace Sys2Proof.Machine

variable {s t u : State} {f : Format} {i : Instr}

/-! ### The length part in hand -/

/-- The state with the length part of a back-reference forgotten. -/
def State.forgetMatch (s : State) : State := { s with matchPart := none }

theorem forgetMatch_of_none (h : s.matchPart = none) : s.forgetMatch = s := by
  rw [State.forgetMatch, ← h]

theorem State.Inv.of_forgetMatch (h : s.forgetMatch.Inv) (hs : s.matchPart = none) : s.Inv :=
  forgetMatch_of_none hs ▸ h

theorem State.Inv.forgetMatch (h : s.Inv) : s.forgetMatch.Inv := (forgetMatch_of_none h.noMatch).symm ▸ h

/-- A distance part clears the latch. -/
theorem Completes.matchPart_of_dsym (h : Completes s i t) (hf : i.format = .dsym) : t.matchPart = none := by
  cases h with
  | distance => rfl
  | length view => cases (asLength_format view).symm.trans hf
  | _ => cases hf

/-- A length part alone sets the latch, and it starts where the element does (43_block_body.md R214). -/
theorem Completes.matchPart_cases (h : Completes s i t) (hf : i.format ≠ .dsym) :
    t.matchPart = s.matchPart ∨
      i.format = .llsym ∧ t.phase = s.phase ∧ ∃ q, t.matchPart = some q ∧ q.start = s.p := by
  cases h with
  | length view => exact .inr ⟨asLength_format view, rfl, _, rfl, rfl⟩
  | distance view => exact absurd (asDistance_format view) hf
  | _ => exact .inl (by simp [State.afterRepeat])

/-! ### What an element keeps of the invariant -/

theorem copyMatch_spec (length dist : Nat) (hdst : s.dst.wf) (hout : s.outlen.toNat ≤ s.runC.toNat) :
    CopySpec s.runC length s.dst s.outlen [] (s.copyMatch length dist) :=
  copyLoop_spec s.runC dist length s.dst s.outlen [] hdst hout

/-- What is written to the output keeps DST canonical and `OUTLEN ≤ C` (20_memory.md R63; 43_block_body.md R220). -/
theorem Completes.output (h : Completes s i t) (hdst : s.dst.wf) (hout : s.outlen.toNat ≤ s.runC.toNat) :
    t.dst.wf ∧ t.outlen.toNat ≤ t.runC.toNat := by
  cases h with
  | storedByte byte _ room =>
    obtain ⟨grown, below⟩ := putByte_outlen_toNat (s := s.advance [8]) byte hout room
    exact ⟨Memory.write_wf _ _ _ hdst, Nat.le_trans (Nat.le_of_eq grown) below⟩
  | lit n byte _ room =>
    obtain ⟨grown, below⟩ := putByte_outlen_toNat (s := s.advance (codeReads n)) byte hout room
    exact ⟨Memory.write_wf _ _ _ hdst, Nat.le_trans (Nat.le_of_eq grown) below⟩
  | distance => exact ⟨(copyMatch_spec _ _ hdst hout).wf, (copyMatch_spec _ _ hdst hout).within⟩
  | _ => simpa [State.afterRepeat] using And.intro hdst hout

/-- BTYPE takes the values 0, 1 and 2 alone (10_state.md R26). -/
theorem Completes.btype_ne (h : Completes s i t) (hs : s.btype ≠ 3) : t.btype ≠ 3 := by
  cases h with
  | btypeStored => exact (by decide : (0 : BitVec 2) ≠ 3)
  | btypeFixed => exact (by decide : (1 : BitVec 2) ≠ 3)
  | btypeDynamic => exact (by decide : (2 : BitVec 2) ≠ 3)
  | _ => simpa [State.afterRepeat] using hs

theorem Completes.srcLen (h : Completes s i t) : t.srcLen = s.srcLen := by
  cases h <;> simp [State.afterRepeat]

/-- An element of the phase's format that completes keeps the invariant, but for the length part in hand. -/
theorem Completes.inv (h : Completes s i t) (hphase : phaseOf i.format = s.phase) (hwf : i.wellFormed = true)
    (hs : s.forgetMatch.Inv) : t.forgetMatch.Inv := by
  obtain ⟨srcWf, dstWf, posInSrc, runNBound, srcLenBound, outInDst, btypeOk, _, phaseOk⟩ := hs
  obtain ⟨src, runN, pos, _⟩ := h.reads runNBound
  obtain ⟨dstWf', outInDst'⟩ := h.output dstWf outInDst
  exact
    { srcWf := src.symm ▸ srcWf
      dstWf := dstWf'
      posInSrc := runN.symm ▸ pos posInSrc
      runNBound := runN.symm ▸ runNBound
      srcLenBound := h.srcLen.symm ▸ srcLenBound
      outInDst := outInDst'
      btypeOk := h.btype_ne btypeOk
      noMatch := rfl
      phaseOk := h.phaseOk hphase hwf phaseOk }

theorem Raises.phase (h : Raises s f t) : t.phase = .error := by cases h <;> rfl

theorem Raises.matchPart (h : Raises s f t) : t.matchPart = none := by cases h <;> rfl

/-- A raise keeps the invariant where the element start is in the source: ERROR asks nothing of the registers. -/
theorem Raises.inv (h : Raises s f t) (hs : s.forgetMatch.Inv)
    (hstart : (s.startFor f).toNat ≤ 8 * s.runN.toNat) : t.Inv := by
  obtain ⟨srcWf, dstWf, _, runNBound, srcLenBound, outInDst, btypeOk, _, _⟩ := hs
  cases h with
  | fault => exact ⟨srcWf, dstWf, hstart, runNBound, srcLenBound, outInDst, btypeOk, rfl, trivial⟩
  | overflow q dist =>
    have copy := copyMatch_spec q.length.toNat dist dstWf outInDst
    exact ⟨srcWf, copy.wf, hstart, runNBound, srcLenBound, copy.within, btypeOk, rfl, trivial⟩

/-! ### The step -/

theorem startFor_of_ne (hf : f ≠ .dsym) : s.startFor f = s.p := by
  cases f <;> first | rfl | exact absurd rfl hf

/-- What an element step is made of under the invariant: nothing, one element that leaves no back-reference half done,
or a length part that completes and then a distance part. -/
inductive ElementStep (s : State) : State → Prop
  | quiet : ElementStep s s
  | one {f : Format} {t : State} (format : s.elementFormat = some f) (run : runElement f s = .next t)
      (whole : ¬ (f = .llsym ∧ t.matchPart.isSome = true)) : ElementStep s t
  | two {i : Instr} {u t : State} {q : MatchPart} (format : s.elementFormat = some .llsym)
      (decoded : DecodedAs .llsym (s.p.toNat % 8) i) (first : Completes s i u) (begun : u.matchPart = some q)
      (start : q.start = s.p) (phase : u.phase = s.phase) (second : runElement .dsym u = .next t) : ElementStep s t

theorem elementStep_made (hs : s.matchPart = none) (h : elementStep s = .next t) : ElementStep s t := by
  rcases elementStep_cases h with ⟨_, rfl⟩ | ⟨f, format, run, whole⟩ | ⟨u, q, format, hl, begun, second⟩
  · exact .quiet
  · exact .one format run whole
  · rcases runElement_cases hl with raised | ⟨i, decoded, first⟩
    · cases raised.matchPart.symm.trans begun
    · rcases first.matchPart_cases (by simp [decoded.format]) with same | ⟨_, phase, q', begun', start⟩
      · cases (same.trans hs).symm.trans begun
      · obtain rfl := Option.some.inj (begun.symm.trans begun')
        exact .two format decoded first begun start phase second

theorem elementStep_inv (hs : s.Inv) (h : elementStep s = .next t) : t.Inv := by
  cases elementStep_made hs.noMatch h with
  | quiet => exact hs
  | @one f _ format run whole =>
    have notDist := elementFormat_ne_dsym hs.noMatch format
    rcases runElement_cases run with raised | ⟨i, decoded, done⟩
    · exact raised.inv hs.forgetMatch (startFor_of_ne notDist ▸ hs.posInSrc)
    · have after := done.inv (decoded.format ▸ elementFormat_phase format) decoded.wellFormed hs.forgetMatch
      refine after.of_forgetMatch ?_
      rcases done.matchPart_cases (decoded.format ▸ notDist) with same | ⟨isLength, _, q, begun, _⟩
      · exact same.trans hs.noMatch
      · exact absurd ⟨decoded.format ▸ isLength, by simp [begun]⟩ whole
  | @two _ u _ _ format decoded first begun start phase second =>
    have body : phaseOf .llsym = s.phase := elementFormat_phase format
    have middle := first.inv (decoded.format ▸ body) decoded.wellFormed hs.forgetMatch
    rcases runElement_cases second with raised | ⟨j, decoded', done⟩
    · refine raised.inv middle ?_
      rw [startFor_dsym begun, start, (first.reads hs.runNBound).runN]
      exact hs.posInSrc
    · have body' : phaseOf j.format = u.phase := by
        rw [decoded'.format]
        exact body.trans phase.symm
      exact (done.inv body' decoded'.wellFormed middle).of_forgetMatch (done.matchPart_of_dsym decoded'.format)

theorem srcMaxBytes_lt : Config.srcMaxBytes < 2 ^ 29 :=
  Nat.max_lt.mpr ⟨by decide, BitVec.isLt _⟩

theorem HostEffect.inv (h : HostEffect s t) (hs : s.Inv) : t.Inv := by
  obtain ⟨srcWf, dstWf, posInSrc, runNBound, srcLenBound, outInDst, btypeOk, noMatch, phaseOk⟩ := hs
  cases h with
  | start =>
    exact ⟨srcWf, dstWf, Nat.zero_le _, srcLenBound, srcLenBound, Nat.zero_le _,
      (by decide : (0 : BitVec 2) ≠ 3), noMatch, trivial⟩
  | reset =>
    obtain ⟨_, _, p0, n0, l0, o0, b0, m0, _⟩ := resetMeetsTheEngineInvariant
    exact ⟨srcWf, dstWf, p0, n0, l0, o0, b0, m0, trivial⟩
  | srcLen v _ legal =>
    exact ⟨srcWf, dstWf, posInSrc, runNBound, Nat.lt_of_le_of_lt legal srcMaxBytes_lt, outInDst, btypeOk, noMatch,
      phaseOk⟩
  | dstCap => exact ⟨srcWf, dstWf, posInSrc, runNBound, srcLenBound, outInDst, btypeOk, noMatch, phaseOk⟩
  | srcByte =>
    exact ⟨Memory.write_wf _ _ _ srcWf, dstWf, posInSrc, runNBound, srcLenBound, outInDst, btypeOk, noMatch, phaseOk⟩
  | dstByte =>
    exact ⟨srcWf, Memory.write_wf _ _ _ dstWf, posInSrc, runNBound, srcLenBound, outInDst, btypeOk, noMatch, phaseOk⟩
  | outside => exact ⟨srcWf, dstWf, posInSrc, runNBound, srcLenBound, outInDst, btypeOk, noMatch, phaseOk⟩

theorem State.Inv.withHost (hs : s.Inv) (acts : List HostAct) : (s.withHost acts).Inv :=
  ⟨hs.srcWf, hs.dstWf, hs.posInSrc, hs.runNBound, hs.srcLenBound, hs.outInDst, hs.btypeOk, hs.noMatch, hs.phaseOk⟩

/-- Settles O41: each element keeps the invariant but for the length part in hand, and a step leaves none in hand. -/
theorem stepKeepsTheEngineInvariant : Obligations.StepKeepsTheEngineInvariant := fun _ _ hs h =>
  step_keeps (P := State.Inv) (fun _ acts hu => hu.withHost acts) (fun _ _ hu he => he.inv hu)
    (fun _ _ hu he => elementStep_inv hu he) hs h

/-! ### The buffered reader -/

/-- A phase with an element to decode is BUSY. -/
theorem busy_of_elementFormat (h : s.elementFormat = some f) : s.busy = true := by
  have hphase := elementFormat_phase h
  rw [State.busy, ← hphase]
  cases f <;> rfl

/-- A raise ends the run. -/
theorem Raises.not_busy (h : Raises s f t) : t.busy = false := by
  rw [State.busy, h.phase]
  rfl

/-- An element run from a coherent reader raises, and so ends the run, or only reads. -/
theorem runElement_reads (hn : s.runN.toNat < 2 ^ 29) (h : runElement f s = .next t) :
    t.busy = false ∨ Reads s t :=
  (runElement_cases h).imp Raises.not_busy fun ⟨_, _, done⟩ => done.reads hn

theorem elementStep_reads (hs : s.Inv) (h : elementStep s = .next t) :
    t = s ∨ t.busy = false ∨ s.busy = true ∧ Reads s t := by
  cases elementStep_made hs.noMatch h with
  | quiet => exact .inl rfl
  | one format run => exact .inr ((runElement_reads hs.runNBound run).imp_right (⟨busy_of_elementFormat format, ·⟩))
  | two format _ first _ _ _ second =>
    have reads := first.reads hs.runNBound
    exact .inr ((runElement_reads (reads.runN ▸ hs.runNBound) second).imp_right fun reads' =>
      ⟨busy_of_elementFormat format, reads.trans reads'⟩)

theorem Reads.cursorOk (h : Reads s t) (busy : s.busy = true) (hs : s.CursorOk) : t.CursorOk := fun _ => by
  rw [h.src, h.runN]
  exact h.coherent (hs busy)

theorem elementStep_cursorOk (hs : s.Inv) (hc : s.CursorOk) (h : elementStep s = .next t) : t.CursorOk := by
  rcases elementStep_reads hs h with rfl | idle | ⟨busy, reads⟩
  · exact hc
  · exact fun busy => by simp [idle] at busy
  · exact reads.cursorOk busy hc

/-- START sets the reader to the start of the source; the host changes SRC outside runs alone (20_memory.md R70). -/
theorem HostEffect.cursorOk (h : HostEffect s t) (hs : s.CursorOk) : t.CursorOk := by
  cases h with
  | start => exact fun _ => BitCursor.start_coherent s.src s.srcLen.toNat
  | reset => exact fun busy => by cases busy
  | srcByte _ _ idle => exact fun busy => by cases idle.symm.trans busy
  | _ => exact hs

/-- Settles O48: under the invariant an element that does not raise only reads, and each read keeps the reader
coherent. -/
theorem readerStaysCoherent : Obligations.ReaderStaysCoherent := fun _ _ hs hc h =>
  (step_keeps (P := fun u => u.Inv ∧ u.CursorOk) (fun _ acts hu => ⟨hu.1.withHost acts, hu.2⟩)
    (fun _ _ hu he => ⟨he.inv hu.1, he.cursorOk hu.2⟩)
    (fun _ _ hu he => ⟨elementStep_inv hu.1 he, elementStep_cursorOk hu.1 hu.2 he⟩) ⟨hs, hc⟩ h).2

end Sys2Proof.Machine

/-! ## What DST holds at OUTLEN and beyond is not observable

An engine and its twin, which differ in DST at OUTLEN and beyond alone, are run side by side: each operation answers the
same but for DST, and the two outputs still agree below OUTLEN. -/

namespace Sys2Proof.Machine

/-- The state with another DST. -/
def State.withDst (s : State) (m : Memory) : State := { s with dst := m }

/-- `m` can stand for DST: both are canonical and agree below OUTLEN, which is within the capacity. -/
structure State.SameOutput (s : State) (m : Memory) : Prop where
  dstWf : s.dst.wf
  wf : m.wf
  outInDst : s.outlen.toNat ≤ s.runC.toNat
  agree : ∀ a, a < s.outlen.toNat → m.read a = s.dst.read a

/-- Where the answer `r` is a next state, the twin's answer `r'` is that state but for a DST of the same output. -/
def SameAnswer (r r' : Res) : Prop := ∀ t, r = .next t → ∃ m, r' = .next (t.withDst m) ∧ t.SameOutput m

variable {s t : State} {m : Memory}

/-- An update that leaves the output alone. -/
theorem State.SameOutput.congr (h : s.SameOutput m) (dst : t.dst = s.dst) (outlen : t.outlen = s.outlen)
    (runC : t.runC = s.runC) : t.SameOutput m := by
  obtain ⟨dstWf, wf, outInDst, agree⟩ := h
  rw [← dst, ← outlen, ← runC] at *
  exact ⟨dstWf, wf, outInDst, agree⟩

/-- A next state with the output of `s`, and the twin's. -/
theorem State.SameOutput.next {t' : State} (h : s.SameOutput m) (dst : t.dst = s.dst) (outlen : t.outlen = s.outlen)
    (runC : t.runC = s.runC) (twin : t' = t.withDst m) : SameAnswer (.next t) (.next t') :=
  fun _ ht => Host.Outcome.next.inj ht ▸ ⟨m, twin ▸ rfl, h.congr dst outlen runC⟩

/-! ### The shared operations -/

theorem ite_sameAnswer {c : Prop} [Decidable c] {a b a' b' : Res} (ha : SameAnswer a a')
    (hb : ¬ c → SameAnswer b b') : SameAnswer (if c then a else b) (if c then a' else b') := by
  split
  · exact ha
  · exact hb ‹_›

theorem reading_sameAnswer {ws : List Nat} {e : Word} {k k' : State → Res} (h : s.SameOutput m)
    (hk : (s.advance ws).SameOutput m → SameAnswer (k (s.advance ws)) (k' ((s.advance ws).withDst m))) :
    SameAnswer (reading ws e s k) (reading ws e (s.withDst m) k') := by
  by_cases hb : s.hasBits ws.sum
  · rw [reading_pos hb, reading_pos (show (s.withDst m).hasBits ws.sum from hb)]
    exact hk (h.congr rfl rfl rfl)
  · rw [reading_neg hb, reading_neg (show ¬ (s.withDst m).hasBits ws.sum from hb)]
    exact h.next rfl rfl rfl rfl

/-- One byte appended to two memories of the same output gives the same output, one byte longer (20_memory.md R63). -/
theorem Memory.agree_write {d d' : Memory} (hd : d.wf) (hd' : d'.wf) {o : Nat} (b : Byte)
    (h : ∀ a, a < o → d'.read a = d.read a) (a : Nat) (ha : a < o + 1) :
    (d'.write o b).read a = (d.write o b).read a := by
  rcases Nat.lt_succ_iff_lt_or_eq.mp ha with below | rfl
  · rw [Memory.read_write_other _ _ _ _ (Nat.ne_of_lt below), Memory.read_write_other _ _ _ _ (Nat.ne_of_lt below)]
    exact h a below
  · rw [Memory.read_write_same _ _ _ hd', Memory.read_write_same _ _ _ hd]

theorem State.SameOutput.putByte (h : s.SameOutput m) (room : s.outlen ≠ s.runC) (b : Byte) :
    (s.putByte b).SameOutput (m.write s.outlen.toNat b) := by
  obtain ⟨grown, below⟩ := putByte_outlen_toNat b h.outInDst room
  refine ⟨Memory.write_wf _ _ _ h.dstWf, Memory.write_wf _ _ _ h.wf, grown ▸ below, fun a ha => ?_⟩
  exact Memory.agree_write h.dstWf h.wf b h.agree a (grown ▸ ha)

/-- A copy that reads below OUTLEN alone does the same on two memories of the same output (43_block_body.md R219). -/
theorem copyLoop_sameOutput (cap : Word) (dist length : Nat) (hdist : 0 < dist) (d d' : Memory) (o : Word)
    (bytes : List Byte) (hd : d.wf) (hd' : d'.wf) (ho : o.toNat ≤ cap.toNat) (back : dist ≤ o.toNat)
    (h : ∀ a, a < o.toNat → d'.read a = d.read a) :
    ∃ e, copyLoop cap dist length d' o bytes = { copyLoop cap dist length d o bytes with dst := e } ∧ e.wf ∧
      ∀ a, a < (copyLoop cap dist length d o bytes).outlen.toNat →
        e.read a = (copyLoop cap dist length d o bytes).dst.read a := by
  induction length generalizing d d' o bytes with
  | zero => exact ⟨d', rfl, hd', h⟩
  | succ k ih =>
    unfold copyLoop
    by_cases hcap : o = cap
    · simp only [if_pos hcap]
      exact ⟨d', rfl, hd', h⟩
    · have below : o.toNat < cap.toNat := Nat.lt_of_le_of_ne ho fun e => hcap (BitVec.eq_of_toNat_eq e)
      have grown : (o + 1).toNat = o.toNat + 1 := by
        have := cap.isLt
        rw [BitVec.toNat_add, show (1 : Word).toNat = 1 from rfl]
        omega
      simp only [if_neg hcap, h (o.toNat - dist) (by omega)]
      exact ih _ _ _ _ (Memory.write_wf _ _ _ hd) (Memory.write_wf _ _ _ hd') (by omega) (by omega)
        fun a ha => Memory.agree_write hd hd' _ h a (grown ▸ ha)

/-! ### The elements -/

theorem closeLens_sameAnswer {t' : State} (h : s.SameOutput m) (dst : t.dst = s.dst) (outlen : t.outlen = s.outlen)
    (runC : t.runC = s.runC) (twin : t' = t.withDst m) : SameAnswer (.next t.closeLens) (.next t'.closeLens) := by
  subst twin
  rcases closeLens_cases t with ⟨hc, e⟩ | ⟨hc, e⟩ <;> rw [e]
  · exact h.next dst outlen runC (if_pos hc)
  · exact h.next dst outlen runC (if_neg hc)

theorem closeCllen_sameAnswer {t' : State} (h : s.SameOutput m) (dst : t.dst = s.dst) (outlen : t.outlen = s.outlen)
    (runC : t.runC = s.runC) (twin : t' = t.withDst m) : SameAnswer (.next t.closeCllen) (.next t'.closeCllen) := by
  subst twin
  rcases closeCllen_cases t with ⟨hc, e⟩ | ⟨hc, e⟩ <;> rw [e]
  · exact h.next dst outlen runC (if_pos hc)
  · exact h.next dst outlen runC (if_neg hc)

theorem repeatLens_sameAnswer (v : BitVec 4) (cnt rs width : Nat) (e : Word) (h : s.SameOutput m) :
    SameAnswer (repeatLens v cnt rs width e s) (repeatLens v cnt rs width e (s.withDst m)) :=
  ite_sameAnswer (h.next rfl rfl rfl rfl) fun _ => closeLens_sameAnswer h rfl rfl rfl rfl

theorem reservedSymbol_sameAnswer (n : Nat) (e : Word) (h : s.SameOutput m) :
    SameAnswer (reservedSymbol n e s) (reservedSymbol n e (s.withDst m)) :=
  reading_sameAnswer h fun _ => h.next rfl rfl rfl rfl

theorem lengthPart_sameAnswer (sym n lext : Nat) (h : s.SameOutput m) :
    SameAnswer (lengthPart sym n lext s) (lengthPart sym n lext (s.withDst m)) :=
  reading_sameAnswer h fun hu => hu.next rfl rfl rfl rfl

/-- The twin's copy: the same OUTLEN, bytes and end, and the same output (43_block_body.md R219, R220). -/
theorem State.SameOutput.copyMatch (h : s.SameOutput m) (length : Nat) {dist : Nat}
    (back : 0 < dist ∧ dist ≤ s.outlen.toNat) :
    ∃ e, (s.withDst m).copyMatch length dist = { s.copyMatch length dist with dst := e } ∧
      ({ s with dst := (s.copyMatch length dist).dst, outlen := (s.copyMatch length dist).outlen } : State).SameOutput
        e := by
  have copy := copyMatch_spec length dist h.dstWf h.outInDst
  obtain ⟨e, same, wf, agree⟩ :=
    copyLoop_sameOutput s.runC dist length back.1 s.dst m s.outlen [] h.dstWf h.wf h.outInDst back.2 h.agree
  exact ⟨e, same, copy.wf, wf, copy.within, agree⟩

theorem finishMatch_sameAnswer (q : MatchPart) (d n dext : Nat) (h : s.SameOutput m) :
    SameAnswer (finishMatch q d n dext s) (finishMatch q d n dext (s.withDst m)) := by
  refine reading_sameAnswer h fun _ => ite_sameAnswer (h.next rfl rfl rfl rfl) fun near => ?_
  obtain ⟨e, same, output⟩ := h.copyMatch q.length.toNat (dist := matchDistance d dext) (by omega)
  rw [same]
  exact ite_sameAnswer (output.next rfl rfl rfl rfl) fun _ => output.next rfl rfl rfl rfl

theorem distancePart_sameAnswer (d n dext : Nat) (h : s.SameOutput m) :
    SameAnswer (distancePart d n dext s) (distancePart d n dext (s.withDst m)) := by
  unfold distancePart
  rw [show (s.withDst m).matchPart = s.matchPart from rfl]
  split
  · rintro _ ⟨⟩
  · exact finishMatch_sameAnswer _ d n dext h

theorem reservedDistance_sameAnswer (n : Nat) (h : s.SameOutput m) :
    SameAnswer (reservedDistance n s) (reservedDistance n (s.withDst m)) := by
  unfold reservedDistance
  rw [show (s.withDst m).matchPart = s.matchPart from rfl]
  split
  · rintro _ ⟨⟩
  · exact reservedSymbol_sameAnswer n _ h

/-- Each element does the same on the twin: it writes DST at OUTLEN and reads it below OUTLEN alone. -/
theorem exec_sameAnswer (i : Instr) (h : s.SameOutput m) : SameAnswer (exec i s) (exec i (s.withDst m)) := by
  cases i <;>
    simp only [exec, execBfinal, execBtypeStored, execBtypeFixed, execBtypeDynamic, execBtypeReserved, blockType,
      execStoredHdr, execStoredByte, execHlit, execHlitReserved, execHdist, execHclen, execCllen, execClLen,
      execClRepPrev, execClZeroShort, execClZeroLong, execLit, execEob]
  case bfinal | btypeStored | btypeFixed | btypeDynamic | btypeReserved | hlit | hlitReserved | hdist | hclen | eob =>
    exact reading_sameAnswer h fun _ => h.next rfl rfl rfl rfl
  case storedHdr =>
    exact ite_sameAnswer (h.next rfl rfl rfl rfl) fun _ =>
      ite_sameAnswer (h.next rfl rfl rfl rfl) fun _ => h.next rfl rfl rfl rfl
  case storedByte byte | lit _ byte =>
    exact reading_sameAnswer h fun hu => ite_sameAnswer (h.next rfl rfl rfl rfl) fun room =>
      (hu.putByte room byte).next rfl rfl rfl rfl
  case storedEnd => exact h.next rfl rfl rfl rfl
  case cllen => exact reading_sameAnswer h fun _ => closeCllen_sameAnswer h rfl rfl rfl rfl
  case clLen => exact reading_sameAnswer h fun _ => closeLens_sameAnswer h rfl rfl rfl rfl
  case clRepPrev =>
    exact reading_sameAnswer h fun hu => ite_sameAnswer (h.next rfl rfl rfl rfl) fun _ =>
      reading_sameAnswer hu fun hv => repeatLens_sameAnswer _ _ _ _ _ hv
  case clZeroShort | clZeroLong => exact reading_sameAnswer h fun hu => repeatLens_sameAnswer _ _ _ _ _ hu
  case litlenReserved286 | litlenReserved287 => exact reservedSymbol_sameAnswer _ _ h
  case distReserved30 | distReserved31 => exact reservedDistance_sameAnswer _ h
  all_goals first
    | exact lengthPart_sameAnswer _ _ _ h
    | exact distancePart_sameAnswer _ _ _ h

/-! ### The step -/

theorem runElement_sameAnswer (f : Format) (h : s.SameOutput m) :
    SameAnswer (runElement f s) (runElement f (s.withDst m)) := by
  unfold runElement
  rw [show (s.withDst m).decodeCtx = s.decodeCtx from rfl, show (s.withDst m).fetchBits = s.fetchBits from rfl,
    show (s.withDst m).startFor f = s.startFor f by cases f <;> rfl]
  split
  · exact exec_sameAnswer _ h
  · rename_i err _
    cases err with
    | noTableEntry => rintro _ ⟨⟩
    | _ => exact h.next rfl rfl rfl rfl

/-- Twins go on with a distance part together (43_block_body.md R214). -/
theorem continueMatch_sameAnswer {r r' : Res} (f : Format) (h : SameAnswer r r') :
    SameAnswer (continueMatch f r) (continueMatch f r') := by
  cases r with
  | next u =>
    obtain ⟨m', rfl, hu⟩ := h u rfl
    exact ite_sameAnswer (runElement_sameAnswer .dsym hu) fun _ => hu.next rfl rfl rfl rfl
  | fault e => rintro _ ⟨⟩
  | refused e => rintro _ ⟨⟩

theorem elementStep_sameAnswer (h : s.SameOutput m) : SameAnswer (elementStep s) (elementStep (s.withDst m)) := by
  unfold elementStep
  rw [show (s.withDst m).elementFormat = s.elementFormat from rfl]
  split
  · exact h.next rfl rfl rfl rfl
  · exact continueMatch_sameAnswer _ (runElement_sameAnswer _ h)

/-- The trace port holds both twins back or neither (45_trace.md R286). -/
theorem gate_sameAnswer {r r' : Res} (h : s.SameOutput m) (hr : SameAnswer r r') :
    SameAnswer (s.gate r) ((s.withDst m).gate r') := by
  cases r with
  | next u =>
    obtain ⟨m', rfl, hu⟩ := hr u rfl
    exact ite_sameAnswer (h.next rfl rfl rfl rfl) fun _ => hu.next rfl rfl rfl rfl
  | fault e => rintro _ ⟨⟩
  | refused e => rintro _ ⟨⟩

/-- Settles O51: under the invariant a canonical memory that agrees with DST below OUTLEN has the same output, and an
engine step on it answers the same. -/
theorem oldDstIsNotObservable : Obligations.OldDstIsNotObservable := by
  unfold Obligations.OldDstIsNotObservable
  intro s t m hs hhost wf agree h
  have output : s.SameOutput m := ⟨hs.dstWf, wf, hs.outInDst, agree⟩
  obtain ⟨m', h', output'⟩ :=
    gate_sameAnswer output (elementStep_sameAnswer output) t ((step_engine hhost).symm.trans h)
  exact ⟨m', (step_engine (s := s.withDst m) hhost).trans h', output'.agree⟩

end Sys2Proof.Machine

/-! ## Fields in stream order -/

namespace Sys2Proof.Machine

theorem bitsToNat_append (l l' : List Bool) : bitsToNat (l ++ l') = bitsToNat l + 2 ^ l.length * bitsToNat l' := by
  induction l with
  | nil => simp only [List.nil_append, bitsToNat, List.length_nil, Nat.pow_zero, Nat.one_mul, Nat.zero_add]
  | cons b l ih =>
    simp only [List.cons_append, bitsToNat, ih, List.length_cons, Nat.mul_add, Nat.pow_succ', Nat.mul_assoc,
      Nat.add_assoc]

theorem streamBits_add (src : Memory) (p v w : Nat) :
    streamBits src p (v + w) = streamBits src p v ++ streamBits src (p + v) w := by
  induction v generalizing p with
  | zero => rw [Nat.zero_add, Nat.add_zero, streamBits, List.nil_append]
  | succ v ih => rw [Nat.succ_add, streamBits, streamBits, ih, List.cons_append, Nat.add_assoc, Nat.add_comm 1 v]

/-- The value of a field is the sum of its bits by weight (20_memory.md R66): each bit more adds its weight. -/
theorem bitsToNat_streamBits (src : Memory) (p w : Nat) : bitsToNat (streamBits src p w) =
    ((List.range w).map fun k => (streamBit src (p + k)).toNat * 2 ^ k).sum := by
  induction w with
  | zero => rfl
  | succ w ih =>
    rw [streamBits_add, bitsToNat_append, length_streamBits, ih, List.range_succ, List.map_append, List.sum_append,
      Nat.mul_comm]
    simp only [streamBits, bitsToNat, List.map_cons, List.map_nil, List.sum_cons, List.sum_nil, Nat.mul_zero,
      Nat.add_zero]

/-- Stream bits that are the bits of a number are its field. -/
theorem streamBits_eq_natBits {src : Memory} {p w v : Nat} (h : ∀ k, k < w → streamBit src (p + k) = v.testBit k) :
    streamBits src p w = natBits w v := by
  induction w generalizing p v with
  | zero => rfl
  | succ w ih =>
    rw [streamBits, natBits, ih (v := v / 2) fun k hk => ?_]
    · rw [← Nat.testBit_zero, ← h 0 (Nat.succ_pos w), Nat.add_zero]
    · rw [Nat.add_assoc, Nat.add_comm 1 k, h _ (Nat.succ_lt_succ hk), Nat.testBit_add_one]

/-- Eight stream bits at a byte boundary are the byte (20_memory.md R65). -/
theorem streamBits_byte (src : Memory) (i : Nat) : streamBits src (8 * i) 8 = fieldBits (src.read i) :=
  streamBits_eq_natBits fun _ hk => streamBit_in_byte rfl hk

/-- Settles O8: a stream bit is a bit of its byte's value, a field weighs its bits, and a 16-bit field at a byte
boundary is two bytes. -/
theorem fieldsAreLittleEndian : Obligations.FieldsAreLittleEndian := by
  unfold Obligations.FieldsAreLittleEndian
  refine ⟨fun src p => ?_, bitsToNat_streamBits, fun src i => ?_⟩
  · exact Nat.testBit_eq_decide_div_mod_eq
  · have bytes := bitsToNat_append (fieldBits (src.read i)) (fieldBits (src.read (i + 1)))
    rw [bitsToNat_fieldBits, bitsToNat_fieldBits, length_fieldBits] at bytes
    rw [streamBits_add src (8 * i) 8 8, show 8 * i + 8 = 8 * (i + 1) from rfl, streamBits_byte, streamBits_byte]
    exact bytes

end Sys2Proof.Machine

/-! ## What an element writes to DST -/

namespace Sys2Proof.Machine

/-- From `s` to `t` the output has grown within the capacity, and DST outside what was added is as before
(20_memory.md R63; 10_state.md R23). -/
structure OutputGrows (s t : State) : Prop where
  grown : s.outlen.toNat ≤ t.outlen.toNat
  within : t.outlen.toNat ≤ t.runC.toNat
  frame : ∀ a, a < s.outlen.toNat ∨ t.outlen.toNat ≤ a → t.dst.read a = s.dst.read a

variable {s t u : State} {f : Format} {i : Instr}

theorem OutputGrows.of_same (hout : s.outlen.toNat ≤ s.runC.toNat) (dst : t.dst = s.dst) (outlen : t.outlen = s.outlen)
    (runC : t.runC = s.runC) : OutputGrows s t := by
  refine ⟨?_, ?_, fun a _ => ?_⟩
  · exact Nat.le_of_eq (congrArg BitVec.toNat outlen.symm)
  · rw [outlen, runC]
    exact hout
  · rw [dst]

theorem OutputGrows.byte (hout : s.outlen.toNat ≤ s.runC.toNat) (room : s.outlen ≠ s.runC) (b : Byte)
    (dst : t.dst = (s.putByte b).dst) (outlen : t.outlen = (s.putByte b).outlen) (runC : t.runC = s.runC) :
    OutputGrows s t := by
  obtain ⟨grown, below⟩ := putByte_outlen_toNat b hout room
  rw [← outlen] at grown
  refine ⟨by omega, by rw [runC]; omega, fun a ha => ?_⟩
  rw [dst, State.putByte_dst, Memory.read_write_other _ _ _ _ (by omega)]

theorem OutputGrows.copy (hout : s.outlen.toNat ≤ s.runC.toNat) (hdst : s.dst.wf) {length dist : Nat}
    (dst : t.dst = (s.copyMatch length dist).dst) (outlen : t.outlen = (s.copyMatch length dist).outlen)
    (runC : t.runC = s.runC) : OutputGrows s t := by
  have spec := copyMatch_spec length dist hdst hout
  obtain ⟨new, _, grown, _⟩ := spec.produced
  refine ⟨?_, ?_, fun a ha => ?_⟩
  · rw [outlen, grown]
    exact Nat.le_add_right _ _
  · rw [outlen, runC]
    exact spec.within
  · rw [dst]
    exact spec.frame a (outlen ▸ ha)

theorem Raises.outputGrows (h : Raises s f t) (hout : s.outlen.toNat ≤ s.runC.toNat) (hdst : s.dst.wf) :
    OutputGrows s t := by
  cases h with
  | fault => exact .of_same hout rfl rfl rfl
  | overflow => exact .copy hout hdst rfl rfl rfl

theorem Completes.outputGrows (h : Completes s i t) (hout : s.outlen.toNat ≤ s.runC.toNat) (hdst : s.dst.wf) :
    OutputGrows s t := by
  cases h with
  | storedByte byte _ room => exact .byte hout room byte rfl rfl rfl
  | lit n byte _ room => exact .byte hout room byte rfl rfl rfl
  | distance => exact .copy hout hdst rfl rfl rfl
  | _ => exact .of_same hout (by simp [State.afterRepeat]) (by simp [State.afterRepeat]) (by simp [State.afterRepeat])

/-- Settles O39: a raise and a completion leave DST alone, append one byte or append a copy. -/
theorem dstIsWrittenOnlyAtOutlen : Obligations.DstIsWrittenOnlyAtOutlen := by
  unfold Obligations.DstIsWrittenOnlyAtOutlen
  intro s t i hout hdst h
  obtain ⟨grown, within, frame⟩ := (exec_cases h).elim (·.outputGrows hout hdst) (·.outputGrows hout hdst)
  exact ⟨grown, within, frame⟩

end Sys2Proof.Machine

/-! ## The host's accesses to SRC and DST -/

namespace Sys2Proof.Machine

/-- The host access by the address `a`: nothing outside the window, and inside it the access by index, which the buffer
has (log entry 30). -/
theorem hostBuffer_address (window : Option Word) (size : Nat) (a : Word) (s : State) (k : Nat → Res) :
    hostBuffer window size (.address a) s k =
      match window with
      | none => .next s
      | some w => if (a - w).toNat < size then unlessBusy s (k (a - w).toNat) else .next s := by
  cases window with
  | none => rfl
  | some w =>
    by_cases inside : (a - w).toNat < size
    · simp only [hostBuffer, HostPlace.resolve, if_pos inside]
    · simp only [hostBuffer, HostPlace.resolve, if_neg inside]

/-- Settles O58: each act is `hostBuffer` on its buffer, which by index is the guard `unlessBusy` before the bound. -/
theorem hostBufferAccesses : Obligations.HostBufferAccesses := by
  unfold Obligations.HostBufferAccesses
  refine ⟨fun s i v rest => ⟨step_host, step_host, step_host, step_host⟩, fun s a v rest => ?_⟩
  exact ⟨fun h => (step_host h).trans (hostBuffer_address ..), fun h => (step_host h).trans (hostBuffer_address ..),
    fun h => (step_host h).trans (hostBuffer_address ..), fun h => (step_host h).trans (hostBuffer_address ..)⟩

end Sys2Proof.Machine

/-! ## Codes: the decode loop gives back what the encoder wrote -/

namespace Sys2Proof.Machine

theorem natBits_succ_append (w v : Nat) : natBits (w + 1) v = natBits w v ++ [v.testBit w] := by
  induction w generalizing v with
  | zero => rw [natBits, Nat.testBit_zero]; rfl
  | succ w ih => rw [natBits, ih, natBits, List.cons_append, Nat.testBit_add_one]

/-- A code is sent most significant bit first (20_memory.md R66). -/
theorem codeBits_succ (w v : Nat) : codeBits (w + 1) v = v.testBit w :: codeBits w v := by
  rw [codeBits, natBits_succ_append, List.reverse_append]
  rfl

@[simp] theorem length_codeBits (n v : Nat) : (codeBits n v).length = n := by simp [codeBits]

/-- Each bit read doubles the value of the bits before it and adds its own. -/
theorem div_two_pow_eq (v w : Nat) : v / 2 ^ w = 2 * (v / 2 ^ (w + 1)) + (v.testBit w).toNat := by
  rw [Nat.toNat_testBit, Nat.pow_succ, ← Nat.div_div_eq_div_mul, Nat.div_add_mod]

/-- The codes of a longer length start past the extensions of all codes of a shorter one (41_huffman.md R154). -/
theorem firstCode_extends (t : Tree) (l m : Nat) :
    (firstCode t (l + 1) + t.count (l + 1)) * 2 ^ (m + 1) ≤ firstCode t (l + 1 + (m + 1)) := by
  induction m with
  | zero => rw [Nat.zero_add, Nat.pow_one, Nat.mul_comm]; exact Nat.le_refl _
  | succ m ih =>
    have step : firstCode t (l + 1 + (m + 1 + 1)) =
        2 * (firstCode t (l + 1 + (m + 1)) + t.count (l + 1 + (m + 1))) := rfl
    rw [step, Nat.pow_succ, ← Nat.mul_assoc]
    omega

/-- The decode loop before the last `m` bits of the code of the `k`-th symbol of length `len + m` (41_huffman.md R154,
R155): `cur` is how far the bits read so far lie past the codes of their own length, and as they begin a longer code
they lie past all of those, until the last bit is read. -/
theorem decodeLoop_code (t : Tree) {k : Nat} {x : BitVec 9} (rest : List Bool) (m : Nat) :
    ∀ (fuel len sum : Nat) (cur : Int), m + 1 ≤ fuel → k < t.count (len + (m + 1)) →
      t.symbols[firstSlot t (len + (m + 1)) + k]? = some x → sum = firstSlot t (len + 1) →
      2 * cur + firstCode t (len + 1) = 2 * ((firstCode t (len + (m + 1)) + k) / 2 ^ (m + 1) : Nat) →
      decodeLoop t fuel len sum cur (codeBits (m + 1) (firstCode t (len + (m + 1)) + k) ++ rest) =
        .ok (x.toNat, len + (m + 1), rest) := by
  induction m with
  | zero =>
    intro fuel len sum cur hfuel hk hx hsum hcur
    obtain ⟨fuel, rfl⟩ := Nat.exists_eq_add_of_le' hfuel
    have last := div_two_pow_eq (firstCode t (len + 1) + k) 0
    rw [Nat.pow_zero, Nat.div_one] at last
    simp only [Nat.zero_add] at hk hx hcur last ⊢
    rw [codeBits_succ, List.cons_append, decodeLoop, if_pos (by omega)]
    have slot : (((sum + t.count (len + 1) : Nat) : Int) +
        (2 * cur + (((firstCode t (len + 1) + k).testBit 0).toNat : Int) - (t.count (len + 1) : Int))).toNat =
          firstSlot t (len + 1) + k := by omega
    rw [slot, hx]
    rfl
  | succ m ih =>
    intro fuel len sum cur hfuel hk hx hsum hcur
    obtain ⟨fuel, rfl⟩ := Nat.exists_eq_add_of_le' (Nat.le_trans (Nat.le_add_left 1 _) hfuel)
    have assoc : len + (m + 1 + 1) = len + 1 + (m + 1) := by omega
    rw [assoc] at hk hx hcur ⊢
    generalize hcode : firstCode t (len + 1 + (m + 1)) + k = code at hcur ⊢
    have doubled := div_two_pow_eq code (m + 1)
    have longer : firstCode t (len + 1) + t.count (len + 1) ≤ code / 2 ^ (m + 1) := by
      rw [Nat.le_div_iff_mul_le (Nat.two_pow_pos _), ← hcode]
      exact Nat.le_trans (firstCode_extends t len m) (Nat.le_add_right _ _)
    have next_first : firstCode t (len + 1 + 1) = 2 * (firstCode t (len + 1) + t.count (len + 1)) := rfl
    rw [codeBits_succ, List.cons_append, decodeLoop, if_neg (by omega), ← hcode]
    refine ih fuel (len + 1) _ _ (by omega) hk hx (by rw [hsum]; rfl) ?_
    rw [hcode]
    omega

/-- What a symbol with a code is: the `k`-th of its length, coded as `code(n) + k` (41_huffman.md R154). -/
theorem encodeSymbol_some {t : Tree} {n sym : Nat} {code : List Bool} (h : encodeSymbol t n sym = some code) :
    ∃ k x, k < t.count n ∧ t.symbols[firstSlot t n + k]? = some x ∧ x.toNat = sym ∧
      firstCode t n + k < 2 ^ n ∧ code = codeBits n (firstCode t n + k) := by
  unfold encodeSymbol at h
  simp only at h
  split at h
  · rename_i k hfind
    obtain ⟨hk, hsym, _⟩ := List.findIdx?_eq_some_iff_getElem.mp hfind
    split at h
    · rename_i hfits
      rw [List.length_take, List.length_drop] at hk
      refine ⟨k, t.symbols[firstSlot t n + k], by omega, List.getElem?_eq_getElem (by omega), ?_, hfits,
        (Option.some.inj h).symm⟩
      simpa using hsym
    · cases h
  · cases h

/-- Every code of any tree decodes to its symbol, over-subscribed trees included (41_huffman.md R154, R159). -/
theorem decodeSymbol_encodeSymbol {t : Tree} {n sym : Nat} {code : List Bool} (rest : List Bool) (h1 : 1 ≤ n)
    (h15 : n ≤ 15) (h : encodeSymbol t n sym = some code) :
    decodeSymbol t (code ++ rest) = .ok (sym, n, rest) ∧ code.length = n := by
  obtain ⟨k, x, hk, hx, rfl, hfits, rfl⟩ := encodeSymbol_some h
  refine ⟨?_, length_codeBits _ _⟩
  obtain ⟨m, rfl⟩ := Nat.exists_eq_add_of_le' h1
  have loop := decodeLoop_code t (k := k) (x := x) rest m Config.maxCodeBits 0 0 0 h15
  simp only [Nat.zero_add] at loop
  refine loop hk hx rfl ?_
  rw [Nat.div_eq_of_lt hfits]
  rfl

end Sys2Proof.Machine

/-! ## The encoder and the decoder agree -/

namespace Sys2Proof

open Sys2Proof.Machine

variable {c : DecodeCtx} {i : Instr} {f : Format} {t : Tree} {n sym w : Nat} {bits extra : List Bool}

/-- A code and extra bits that were encoded are read as the symbol, and its extra bits come next. -/
theorem takeCode_of_codeThen (rest : List Bool) (k : Nat → Nat → List Bool → Decoded) (hn : codeLenOk n = true)
    (h : codeThen t n sym extra = some bits) :
    takeCode t (bits ++ rest) k = k sym n (extra ++ rest) ∧ bits.length = n + extra.length := by
  obtain ⟨code, hcode, rfl⟩ := Option.map_eq_some_iff.mp h
  obtain ⟨h1, h15⟩ : 1 ≤ n ∧ n ≤ 15 := by simpa [codeLenOk] using hn
  obtain ⟨decoded, length⟩ := decodeSymbol_encodeSymbol (extra ++ rest) h1 h15 hcode
  rw [List.append_assoc, List.length_append, length]
  exact ⟨takeCode_of_ok k decoded, rfl⟩

/-- A field that was encoded is read back as its element. -/
theorem takeField_encoded {rest : List Bool} {v : BitVec w} {dec : List Bool → Decoded} {mk : BitVec w → Instr}
    (hd : ∀ bits, dec bits = takeField w bits fun v r => .ok (mk v, r)) (hi : mk v = i) :
    dec (fieldBits v ++ rest) = .ok (i, rest) := by
  rw [hd, takeField_append, hi]

/-- A code that was encoded is read back as its element. -/
theorem takeCode_encoded {rest : List Bool} (k : Nat → Nat → List Bool → Decoded) (hn : codeLenOk n = true)
    (he : codeThen t n sym [] = some bits) (hk : k sym n rest = .ok (i, rest)) :
    takeCode t (bits ++ rest) k = .ok (i, rest) ∧ bits.length = n := by
  obtain ⟨taken, length⟩ := takeCode_of_codeThen rest k hn he
  exact ⟨taken.trans hk, length⟩

/-- A code and its extra bits that were encoded are read back as their element. -/
theorem takeCode_encoded_field {rest : List Bool} {v : BitVec w} (k : Nat → Nat → List Bool → Decoded)
    (hn : codeLenOk n = true) (he : codeThen t n sym (fieldBits v) = some bits)
    (hk : k sym n (fieldBits v ++ rest) = .ok (i, rest)) :
    takeCode t (bits ++ rest) k = .ok (i, rest) ∧ bits.length = n + w := by
  obtain ⟨taken, length⟩ := takeCode_of_codeThen rest k hn he
  rw [length_fieldBits] at length
  exact ⟨taken.trans hk, length⟩

/-- The two pieces of a stored header after its pad (30_encoding.md R84). -/
theorem decode_encoded_storedHdr (c : DecodeCtx) (len nlen : BitVec 16) (rest : List Bool) :
    decode .sh32 c (List.replicate (padOf c.align) false ++ (fieldBits len ++ fieldBits nlen) ++ rest) =
      .ok (.storedHdr len nlen, rest) := by
  simp only [decode]
  rw [if_neg (by simp), List.append_assoc, List.drop_left' List.length_replicate, List.append_assoc,
    takeField_append, takeField_append]

theorem decodeLitLen_literal (n : Nat) (byte : BitVec 8) (rest : List Bool) :
    decodeLitLen byte.toNat n rest = .ok (.lit n byte, rest) := by
  unfold decodeLitLen
  rw [if_pos byte.isLt, BitVec.ofNat_toNat, BitVec.setWidth_eq]

theorem decodeCodeLength_length (noPrevious : Bool) (n : Nat) (len : BitVec 4) (rest : List Bool) :
    decodeCodeLength noPrevious len.toNat n rest = .ok (.clLen n len, rest) := by
  unfold decodeCodeLength
  rw [if_pos len.isLt, BitVec.ofNat_toNat, BitVec.setWidth_eq]

/-- The HLIT field of value 0 to 29 (30_encoding.md R88). -/
theorem decode_hlit (c : DecodeCtx) {v : BitVec 5} (hv : v.toNat < 30) (rest : List Bool) :
    decode .f5h c (fieldBits v ++ rest) = .ok (.hlit v, rest) := by
  rw [decode, takeField_append, if_pos hv]

/-- The HLIT field of value 30 or 31 (30_encoding.md R88). -/
theorem decode_hlitReserved (c : DecodeCtx) (low : BitVec 1) (rest : List Bool) :
    decode .f5h c (natBits 5 (30 + low.toNat) ++ rest) = .ok (.hlitReserved low, rest) := by
  have field : natBits 5 (30 + low.toNat) = fieldBits (BitVec.ofNat 5 (30 + low.toNat)) := by
    rw [fieldBits, BitVec.toNat_ofNat, Nat.mod_eq_of_lt (by omega)]
  have reserved : ¬ (BitVec.ofNat 5 (30 + low.toNat)).toNat < 30 := by
    rw [BitVec.toNat_ofNat, Nat.mod_eq_of_lt (by omega)]
    omega
  have bit : (BitVec.ofNat 5 (30 + low.toNat)).setWidth 1 = low :=
    BitVec.eq_of_toNat_eq (by simp; omega)
  rw [field, decode, takeField_append, if_neg reserved, bit]

/-- Settles O18: a field reads back as its value, a code as its symbol (`decodeSymbol_encodeSymbol`), and the map from
symbols to elements is that of the encoder, row by row. -/
theorem decodeInvertsEncode : Obligations.DecodeInvertsEncode := by
  unfold Obligations.DecodeInvertsEncode
  intro c i bits rest hwf hprev he
  cases i
  case bfinal | storedByte | hdist | hclen | cllen =>
    obtain rfl := Option.some.inj he
    exact ⟨takeField_encoded (fun _ => rfl) rfl, length_fieldBits _⟩
  case btypeStored | btypeFixed | btypeDynamic | btypeReserved | storedEnd =>
    obtain rfl := Option.some.inj he
    exact ⟨rfl, rfl⟩
  case storedHdr len nlen =>
    obtain rfl := Option.some.inj he
    exact ⟨decode_encoded_storedHdr c len nlen rest, by simp [Instr.width]⟩
  case hlit v =>
    obtain rfl := Option.some.inj he
    exact ⟨decode_hlit c (of_decide_eq_true hwf) rest, length_fieldBits v⟩
  case hlitReserved low =>
    obtain rfl := Option.some.inj he
    exact ⟨decode_hlitReserved c low rest, length_natBits 5 _⟩
  case clLen => exact takeCode_encoded _ hwf he (decodeCodeLength_length ..)
  case clRepPrev n rep =>
    refine takeCode_encoded_field _ hwf he ?_
    rw [hprev n rep rfl]
    exact takeField_encoded (fun _ => rfl) rfl
  case lit => exact takeCode_encoded _ hwf he (decodeLitLen_literal ..)
  case eob | len257 | len258 | len259 | len260 | len261 | len262 | len263 | len264 | len285 | litlenReserved286
      | litlenReserved287 => exact takeCode_encoded decodeLitLen hwf he rfl
  case dist0 | dist1 | dist2 | dist3 | distReserved30 | distReserved31 =>
    exact takeCode_encoded decodeDistance hwf he rfl
  all_goals exact takeCode_encoded_field _ hwf he (takeField_encoded (fun _ => rfl) rfl)

end Sys2Proof

/-! ## Written-out bits, and the step that runs a decoded element -/

namespace Sys2Proof.Machine

variable {s t : State} {f : Format} {i : Instr}

/-- Settles O2: the decoder is run on each of the eleven bit sequences. -/
theorem specBitsDecodeToTheirElements : Obligations.SpecBitsDecodeToTheirElements := by
  unfold Obligations.SpecBitsDecodeToTheirElements
  exact ⟨rfl, rfl, rfl, rfl, rfl, rfl, rfl, rfl, rfl, rfl, rfl⟩

/-- An element that is no length part puts none in hand. -/
theorem Completes.matchPart_of_asLength (h : Completes s i t) (hi : i.asLength = none) (hs : s.matchPart = none) :
    t.matchPart = none := by
  cases h with
  | length view => cases hi.symm.trans view
  | distance => rfl
  | _ => simpa [State.afterRepeat] using hs

theorem exec_matchPart_of_asLength (h : exec i s = .next t) (hi : i.asLength = none) (hs : s.matchPart = none) :
    t.matchPart = none :=
  (exec_cases h).elim Raises.matchPart fun done => done.matchPart_of_asLength hi hs

/-- Where the next element is an LLSYM, no length part is in hand (30_encoding.md R80, R82). -/
theorem matchPart_of_elementFormat_llsym (h : s.elementFormat = some .llsym) : s.matchPart = none := by
  unfold State.elementFormat at h
  split at h <;> simp_all

/-- Settles O3: the step decodes the element and runs it, and goes on after a length part alone. -/
theorem stepRunsTheDecodedElement : Obligations.StepRunsTheDecodedElement := by
  unfold Obligations.StepRunsTheDecodedElement
  intro s f i rest undisturbed format decoded notLength
  rw [step_undisturbed undisturbed, elementStep_some format, runElement_ok decoded]
  refine continueMatch_other fun t run isLit => ?_
  subst isLit
  exact exec_matchPart_of_asLength run notLength (matchPart_of_elementFormat_llsym format)

theorem distancePart_refused (d n dext : Nat) (h : s.matchPart = none) :
    distancePart d n dext s = .refused .noLengthPart := by
  simp only [distancePart, h]

theorem reservedDistance_refused (n : Nat) (h : s.matchPart = none) :
    reservedDistance n s = .refused .noLengthPart := by
  simp only [reservedDistance, h]

/-- Settles O36: a DSYM element is a reserved symbol or a distance part, and either asks for the length part first. -/
theorem distanceNeedsALengthPart : Obligations.DistanceNeedsALengthPart := by
  unfold Obligations.DistanceNeedsALengthPart
  intro s i isDist noPart
  rcases dsym_cases isDist with ⟨n, rfl | rfl⟩ | ⟨d, n, dext, view⟩
  · exact reservedDistance_refused n noPart
  · exact reservedDistance_refused n noPart
  · rw [(exec_of_asDistance view s).1]
    exact distancePart_refused d n dext noPart

end Sys2Proof.Machine

/-! ## Under the invariant a step always answers

No decode meets an entry its table does not hold (41_huffman.md R158) or a symbol without a row (30_encoding.md R90), and
a distance part is decoded only where a length part is in hand. -/

namespace Sys2Proof

open Sys2Proof.Machine

variable {w sym n : Nat} {bits : List Bool}

/-! ### The decode -/

/-- A field is there or it is truncated. -/
theorem takeField_ne_entry {k : BitVec w → List Bool → Decoded} (hk : ∀ v r, k v r ≠ .error .noTableEntry)
    (bits : List Bool) : takeField w bits k ≠ .error .noTableEntry := by
  unfold takeField
  split
  · rintro ⟨⟩
  · exact hk _ _

theorem takeField_entry (mk : BitVec w → Instr) (bits : List Bool) :
    takeField w bits (fun v r => .ok (mk v, r)) ≠ .error .noTableEntry :=
  takeField_ne_entry (k := fun v r => .ok (mk v, r)) (fun _ _ => nofun) bits

theorem takeCode_entry {t : Tree} {bound : Nat} {k : Nat → Nat → List Bool → Decoded} (ht : t.Legal bound)
    (hk : ∀ sym n rest, sym < bound → k sym n rest ≠ .error .noTableEntry) (bits : List Bool) :
    takeCode t bits k ≠ .error .noTableEntry := by
  unfold takeCode
  split
  · rename_i err hd
    rintro ⟨⟩
    exact decodeSymbol_entry ht bits hd
  · rename_i sym n rest hd
    obtain ⟨_, _, ⟨x, hx, rfl⟩, _⟩ := decodeSymbol_ok hd
    exact hk _ n rest (ht.2.2 x hx)

/-- Every code-length symbol has a row (30_encoding.md R88). -/
theorem decodeCodeLength_entry (noPrevious : Bool) (h : sym < 19) :
    decodeCodeLength noPrevious sym n bits ≠ .error .noTableEntry := by
  intro he
  unfold decodeCodeLength at he
  split at he
  · cases he
  · split at he
    · split at he
      · cases he
      · exact takeField_entry _ _ he
    · exact takeField_entry _ _ he
    · exact takeField_entry _ _ he
    · simp only [imp_false] at *
      omega

/-- Every literal/length symbol has a row (30_encoding.md R88). -/
theorem decodeLitLen_entry (h : sym < 288) : decodeLitLen sym n bits ≠ .error .noTableEntry := by
  intro he
  unfold decodeLitLen at he
  split at he
  · cases he
  · split at he <;> simp only [takeField_entry, reduceCtorEq] at he
    simp only [imp_false] at *
    omega

/-- Every distance symbol has a row (30_encoding.md R88). -/
theorem decodeDistance_entry (h : sym < 32) : decodeDistance sym n bits ≠ .error .noTableEntry := by
  intro he
  unfold decodeDistance at he
  split at he <;> simp only [takeField_entry, reduceCtorEq] at he
  simp only [imp_false] at *
  omega

namespace Machine

variable {s : State} {f : Format} {i : Instr}

/-- The tree a code of format `f` is read with is one a build may have written, of symbols that have a row. -/
def State.TreeOk (s : State) : Format → Prop
  | .clsym => s.clt.tree.Legal 19
  | .llsym => s.litTree.Legal 288
  | .dsym => s.distTree.Legal 32
  | _ => True

theorem decode_entry (h : s.TreeOk f) (bits : List Bool) : decode f s.decodeCtx bits ≠ .error .noTableEntry := by
  cases f with
  | f1 | b8 | f5d | f4 | f3 => exact takeField_entry _ bits
  | f2 => exact takeField_entry (fun v => decodeBtype v.toNat) bits
  | z0 => rintro ⟨⟩
  | sh32 =>
    simp only [decode]
    split
    · rintro ⟨⟩
    · exact takeField_ne_entry (fun len r => takeField_entry (.storedHdr len) r) _
  | f5h =>
    simp only [decode]
    refine takeField_ne_entry (fun v r => ?_) bits
    split <;> rintro ⟨⟩
  | clsym => exact takeCode_entry h (fun _ _ _ => decodeCodeLength_entry _) bits
  | llsym => exact takeCode_entry h (fun _ _ _ => decodeLitLen_entry) bits
  | dsym => exact takeCode_entry h (fun _ _ _ => decodeDistance_entry) bits

/-- FLT is a legal table of 288 symbols (41_huffman.md R161). -/
theorem fixedLit_legal : fixedLit.Legal 288 := by
  refine ⟨rfl, ?_, fun x hx => ?_⟩
  · simp only [fixedLit, List.length_map, List.length_append, List.length_range']
    decide
  · simp only [fixedLit, List.mem_map, List.mem_append, List.mem_range'_1] at hx
    obtain ⟨sym, hsym, rfl⟩ := hx
    rw [BitVec.toNat_ofNat]
    omega

/-- FDT is a legal table of 32 symbols (41_huffman.md R162). -/
theorem fixedDist_legal : fixedDist.Legal 32 := by
  refine ⟨rfl, rfl, fun x hx => ?_⟩
  simp only [fixedDist, List.mem_map, List.mem_range] at hx
  obtain ⟨sym, hsym, rfl⟩ := hx
  rw [BitVec.toNat_ofNat]
  omega

theorem Tree.Legal.mono {t : Tree} {a b : Nat} (h : t.Legal a) (hab : a ≤ b) : t.Legal b :=
  ⟨h.1, h.2.1, fun x hx => Nat.lt_of_lt_of_le (h.2.2 x hx) hab⟩

/-- In a block body both active trees are legal (43_block_body.md R210, R216). -/
theorem activeTrees_legal (hphase : s.phase = .body) (hs : s.PhaseOk) : s.litTree.Legal 288 ∧ s.distTree.Legal 32 := by
  unfold State.litTree State.distTree
  by_cases hactive : s.active = 0
  · rw [if_pos hactive, if_pos hactive]
    exact ⟨fixedLit_legal, fixedDist_legal⟩
  · obtain ⟨lit, dist⟩ := ((phaseOk_body hphase).mp hs).resolve_left hactive
    rw [if_neg hactive, if_neg hactive]
    exact ⟨lit.mono (by decide), dist⟩

/-- The phase's registers hold legal trees for the formats the phase selects. -/
theorem treeOk_of_phaseOk (hphase : phaseOf f = s.phase) (hs : s.PhaseOk) : s.TreeOk f := by
  cases f with
  | clsym => exact ((phaseOk_dynLens hphase.symm).mp hs).2.2.2
  | llsym => exact (activeTrees_legal hphase.symm hs).1
  | dsym => exact (activeTrees_legal hphase.symm hs).2
  | _ => trivial

/-! ### The element -/

/-- A next state is answered: no fault and no refusal. -/
def Answers (r : Res) : Prop := ∃ t, r = .next t

theorem answers_next (t : State) : Answers (.next t) := ⟨t, rfl⟩

theorem reading_always {ws : List Nat} {e : Word} {k : State → Res} (h : ∀ u, Answers (k u)) :
    Answers (reading ws e s k) := by
  rcases reading_cases ws e s k with ⟨_, hr⟩ | ⟨_, hr⟩ <;> rw [hr]
  · exact answers_next _
  · exact h _

theorem ite_always {c : Prop} [Decidable c] {a b : Res} (ha : Answers a) (hb : Answers b) :
    Answers (if c then a else b) := by
  split
  · exact ha
  · exact hb

theorem repeatLens_always (v : BitVec 4) (cnt rs width : Nat) (e : Word) (s : State) :
    Answers (repeatLens v cnt rs width e s) :=
  ite_always (answers_next _) (answers_next _)

theorem lengthPart_always (sym n lext : Nat) (s : State) : Answers (lengthPart sym n lext s) :=
  reading_always fun _ => answers_next _

theorem finishMatch_always (q : MatchPart) (d n dext : Nat) (s : State) : Answers (finishMatch q d n dext s) :=
  reading_always fun _ => ite_always (answers_next _) (ite_always (answers_next _) (answers_next _))

theorem reservedSymbol_always (n : Nat) (e : Word) (s : State) : Answers (reservedSymbol n e s) :=
  reading_always fun _ => answers_next _

/-- A distance element answers where a length part is in hand. -/
theorem exec_dsym_answers {q : MatchPart} (hi : i.format = .dsym) (begun : s.matchPart = some q) :
    Answers (exec i s) := by
  have reserved (n : Nat) : Answers (reservedDistance n s) := by
    simp only [reservedDistance, begun]
    exact reservedSymbol_always n q.start s
  rcases dsym_cases hi with ⟨n, rfl | rfl⟩ | ⟨d, n, dext, view⟩
  · exact reserved n
  · exact reserved n
  · simp only [(exec_of_asDistance view s).1, distancePart, begun]
    exact finishMatch_always q d n dext s

/-- Every other element always answers. -/
theorem exec_answers (hi : i.format ≠ .dsym) : Answers (exec i s) := by
  cases i
  case bfinal | btypeStored | btypeFixed | btypeDynamic | btypeReserved | hlit | hlitReserved | hdist | hclen | cllen
      | clLen | eob | litlenReserved286 | litlenReserved287 =>
    exact reading_always fun _ => answers_next _
  case storedHdr => exact ite_always (answers_next _) (ite_always (answers_next _) (answers_next _))
  case storedByte | lit => exact reading_always fun _ => ite_always (answers_next _) (answers_next _)
  case storedEnd => exact answers_next _
  case clRepPrev =>
    exact reading_always fun _ => ite_always (answers_next _) (reading_always (repeatLens_always _ _ _ _ _))
  case clZeroShort | clZeroLong => exact reading_always (repeatLens_always _ _ _ _ _)
  case len257 | len258 | len259 | len260 | len261 | len262 | len263 | len264 | len265 | len266 | len267 | len268
      | len269 | len270 | len271 | len272 | len273 | len274 | len275 | len276 | len277 | len278 | len279 | len280
      | len281 | len282 | len283 | len284 | len285 =>
    exact lengthPart_always ..
  all_goals exact absurd rfl hi

/-- Decoding one element and running it answers, where the tree is legal and a distance part continues a length part. -/
theorem runElement_answers (tree : s.TreeOk f) (begun : f = .dsym → s.matchPart ≠ none) : Answers (runElement f s) := by
  cases hd : decode f s.decodeCtx s.fetchBits with
  | ok r =>
    obtain ⟨i, rest⟩ := r
    rw [runElement_ok hd]
    obtain ⟨⟨rfl, _, _⟩, _⟩ := decode_ok hd
    by_cases hf : i.format = .dsym
    · obtain ⟨q, hq⟩ := Option.ne_none_iff_exists'.mp (begun hf)
      exact exec_dsym_answers hf hq
    · exact exec_answers hf
  | error err =>
    rw [runElement_error hd]
    cases err with
    | noTableEntry => exact absurd hd (decode_entry tree _)
    | _ => exact answers_next _

/-! ### The step -/

/-- After a length part the body's trees are as legal as before it. -/
theorem treeOk_dsym_of_length {t : State} {q : MatchPart} (hs : s.Inv) (format : s.elementFormat = some .llsym)
    (run : runElement .llsym s = .next t) (begun : t.matchPart = some q) : t.TreeOk .dsym := by
  rcases runElement_cases run with raised | ⟨i, decoded, done⟩
  · cases raised.matchPart.symm.trans begun
  · have body : phaseOf i.format = s.phase := decoded.format ▸ elementFormat_phase format
    have phaseOk : t.PhaseOk := done.phaseOk body decoded.wellFormed hs.phaseOk
    rcases done.matchPart_cases (by simp [decoded.format]) with same | ⟨_, phase, _⟩
    · cases (same.trans hs.noMatch).symm.trans begun
    · rw [decoded.format] at body
      exact treeOk_of_phaseOk (body.trans phase.symm) phaseOk

theorem elementStep_answers (hs : s.Inv) : Answers (elementStep s) := by
  cases format : s.elementFormat with
  | none => exact elementStep_none format ▸ answers_next s
  | some f =>
    have notDist := elementFormat_ne_dsym hs.noMatch format
    obtain ⟨t, run⟩ := runElement_answers (treeOk_of_phaseOk (elementFormat_phase format) hs.phaseOk)
      fun isDist => absurd isDist notDist
    rw [elementStep_some format, run]
    by_cases second : f = .llsym ∧ t.matchPart.isSome = true
    · obtain ⟨rfl, isSome⟩ := second
      obtain ⟨q, begun⟩ := Option.isSome_iff_exists.mp isSome
      rw [continueMatch_length begun]
      exact runElement_answers (treeOk_dsym_of_length hs format run begun) fun _ => by simp [begun]
    · exact ⟨t, if_neg second⟩

/-- Settles O43: each half of an element step answers, and the trace port lets the answer through or holds it back. -/
theorem engineStepAlwaysCompletes : Obligations.EngineStepAlwaysCompletes := by
  unfold Obligations.EngineStepAlwaysCompletes
  intro s hs hhost
  obtain ⟨t, run⟩ := elementStep_answers hs
  rw [step_engine hhost, engineStep, run]
  exact ite_always (answers_next _) (answers_next _)

end Machine

end Sys2Proof

/-! ## The buffered reader gives the field at P -/

namespace Sys2Proof.Machine

variable {c : BitCursor} {src : Memory} {n p w : Nat}

/-- The lowest `w` buffered bits are the field of `w` bits at P (40_bitcursor.md R129). -/
theorem BitCursor.Coherent.field (h : c.Coherent src n p) (hw : w ≤ c.bitCnt.toNat) :
    c.bitBuf &&& BitVec.ofNat 32 (2 ^ w - 1) = BitVec.ofNat 32 (bitsToNat (streamBits src p w)) := by
  have width : w < 32 := Nat.lt_of_le_of_lt hw c.bitCnt.isLt
  have masked : (c.bitBuf &&& BitVec.ofNat 32 (2 ^ w - 1)).toNat = c.bitBuf.toNat % 2 ^ w := by
    have := Nat.pow_lt_pow_right (a := 2) (by decide) width
    rw [BitVec.toNat_and, BitVec.toNat_ofNat, Nat.mod_eq_of_lt (by omega), Nat.and_two_pow_sub_one_eq_mod]
  have bits : streamBits src p w = natBits w (c.bitBuf.toNat % 2 ^ w) := streamBits_eq_natBits fun k hk => by
    have buffered := h.buffer k (Nat.lt_trans hk width)
    rw [decide_eq_true (Nat.lt_of_lt_of_le hk hw), Bool.true_and] at buffered
    rw [← buffered, Nat.testBit_mod_two_pow, decide_eq_true hk, Bool.true_and, BitVec.testBit_toNat]
  rw [bits, bitsToNat_natBits w _ (Nat.mod_lt _ (Nat.two_pow_pos w)), ← masked, BitVec.ofNat_toNat, BitVec.setWidth_eq]

/-- A read of bits that are there gives the field at P and moves the reader past it (40_bitcursor.md R129, R131). -/
theorem BitCursor.read_some (hn : n < 2 ^ 29) (h : c.Coherent src n p) (hw : w ≤ 16) (hb : p + w ≤ 8 * n) :
    ∃ c', c.read src n w = some (BitVec.ofNat 32 (bitsToNat (streamBits src p w)), c') ∧ c'.Coherent src n (p + w) := by
  obtain ⟨coherent, stop⟩ := refill_coherent hn h
  have position := coherent.position
  have enough : w ≤ (c.refill src n).bitCnt.toNat := by omega
  refine ⟨_, ?_, coherent.consume enough⟩
  rw [← coherent.field enough]
  exact if_neg (Nat.not_lt.mpr enough)

/-- A read past the last byte gives nothing: the refill loads no byte the source does not have (40_bitcursor.md R127,
R128). -/
theorem BitCursor.read_none (hn : n < 2 ^ 29) (h : c.Coherent src n p) (hb : 8 * n < p + w) :
    c.read src n w = none := by
  obtain ⟨position, loaded, _⟩ := (refill_coherent hn h).1
  exact if_pos (show (c.refill src n).bitCnt.toNat < w by omega)

/-- Settles O10: a refilled reader holds the field at P or all that is left of the source, and the alignment leaves no
bit buffered. -/
theorem bufferedReaderFollowsP : Obligations.BufferedReaderFollowsP := by
  unfold Obligations.BufferedReaderFollowsP
  intro c src n p hn h
  have aligned := BitCursor.align_coherent h
  refine ⟨fun w _ hw => ⟨BitCursor.read_some hn h hw, BitCursor.read_none hn h⟩, aligned, ?_⟩
  have position : p + padOf p + 0 = 8 * c.align.srcIdx.toNat := aligned.position
  omega

end Sys2Proof.Machine

/-! ## Reads of no bits, and elements and decodes that raise -/

namespace Sys2Proof.Machine

variable {s t : State} {i : Instr}

/-- Consuming a field of no bits changes nothing (40_bitcursor.md R124). -/
theorem advance_zero (s : State) : s.advance [0] = s := by
  have p : s.p + BitVec.ofNat 32 [0].sum = s.p := BitVec.add_zero _
  rw [State.advance, p]
  rfl

/-- Settles O9: a read of no bits needs none, and a row with no extra bits leaves them the value 0 alone. -/
theorem zeroWidthReadDoesNothing : Obligations.ZeroWidthReadDoesNothing := by
  unfold Obligations.ZeroWidthReadDoesNothing
  refine ⟨fun s e k inSrc => ?_, fun bits k => rfl, fun i sym n lext view noBits => ?_,
    fun i d n dext view noBits => ?_, fun s => ⟨rfl, rfl⟩⟩
  · rw [reading_pos (show s.hasBits [0].sum from inSrc), advance_zero]
  · obtain ⟨_, _, _, below, _⟩ := exec_of_asLength view State.reset
    rw [noBits, Nat.pow_zero, Nat.lt_one_iff] at below
    rw [matchLength, below, Nat.add_zero]
  · obtain ⟨_, _, below, _⟩ := exec_of_asDistance view State.reset
    rw [noBits, Nat.pow_zero, Nat.lt_one_iff] at below
    rw [matchDistance, below, Nat.add_zero]

/-! ### Too few bits -/

theorem hasBits_code {n : Nat} : s.hasBits (codeReads n).sum ↔ s.hasBits n := by rw [sum_codeReads]

theorem hasBits_codeThen {n x : Nat} : s.hasBits (codeReads n ++ [x]).sum ↔ s.hasBits (n + x) := by
  rw [List.sum_append, sum_codeReads, List.sum_singleton]

/-- The pad from a position depends on its place in the byte alone (40_bitcursor.md R125). -/
theorem padOf_mod (p : Nat) : padOf (p % 8) = padOf p := by
  rw [padOf, padOf, Nat.mod_mod]

/-- A repeat of the previous length is read in two parts, and either may run out of bits (42_dynamic_trees.md R187). -/
theorem execClRepPrev_truncated {n : Nat} {rep : BitVec 2} (hn : s.runN.toNat < 2 ^ 29) (h : ¬ s.hasBits (n + 2))
    (previous : s.num ≠ 0) : execClRepPrev n rep s = .next (s.raise .truncatedStream s.p) := by
  rcases reading_cases (codeReads n) s.p s _ with ⟨_, hr⟩ | ⟨code, hr⟩
  · exact hr
  · have extra : ¬ (s.advance (codeReads n)).hasBits [2].sum := by
      rw [State.hasBits, advance_toNat hn code, sum_codeReads, Nat.add_assoc]
      exact h
    exact hr.trans ((if_neg previous).trans (reading_neg extra))

theorem reservedDistance_truncated {n : Nat} {q : MatchPart} (begun : s.matchPart = some q) (h : ¬ s.hasBits n) :
    reservedDistance n s = .next (s.raise .truncatedStream (s.startFor .dsym)) := by
  simp only [reservedDistance, begun, startFor_dsym begun]
  exact reading_neg (mt hasBits_code.mp h)

theorem exec_dsym_truncated {q : MatchPart} (isDist : i.format = .dsym) (begun : s.matchPart = some q)
    {align : Nat} (h : ¬ s.hasBits (i.width align)) :
    exec i s = .next (s.raise .truncatedStream (s.startFor i.format)) := by
  rcases dsym_cases isDist with ⟨n, rfl | rfl⟩ | ⟨d, n, dext, view⟩
  · exact reservedDistance_truncated begun h
  · exact reservedDistance_truncated begun h
  · obtain ⟨run, _, _, width⟩ := exec_of_asDistance view s
    rw [width] at h
    simp only [run, distancePart, begun, isDist, startFor_dsym begun]
    exact reading_neg (mt hasBits_codeThen.mp h)

theorem exec_length_truncated {sym n lext : Nat} (view : i.asLength = some (sym, n, lext)) {align : Nat}
    (h : ¬ s.hasBits (i.width align)) : exec i s = .next (s.raise .truncatedStream s.p) := by
  obtain ⟨run, _, _, _, width⟩ := exec_of_asLength view s
  rw [width] at h
  rw [run]
  exact reading_neg (mt hasBits_codeThen.mp h)

/-- Every element whose bits are not all there raises TruncatedStream at the element start (40_bitcursor.md R127;
60_exceptions.md R335). -/
theorem exec_truncated (inSrc : s.p.toNat ≤ 8 * s.runN.toNat) (hn : s.runN.toNat < 2 ^ 29)
    (h : ¬ s.hasBits (i.width (s.p.toNat % 8))) (previous : ∀ n rep, i = .clRepPrev n rep → s.num ≠ 0)
    (begun : i.format = .dsym → s.matchPart ≠ none) :
    exec i s = .next (s.raise .truncatedStream (s.startFor i.format)) := by
  by_cases isDist : i.format = .dsym
  · obtain ⟨q, hq⟩ := Option.ne_none_iff_exists'.mp (begun isDist)
    exact exec_dsym_truncated isDist hq h
  cases i <;> simp only [Instr.width, padOf_mod] at h
  case bfinal | btypeStored | btypeFixed | btypeDynamic | btypeReserved | storedByte | hlit | hlitReserved | hdist
      | hclen | cllen => exact if_neg h
  case storedHdr => exact if_pos h
  case storedEnd => exact absurd inSrc h
  case clRepPrev n rep => exact execClRepPrev_truncated hn h (previous n rep rfl)
  case clZeroShort | clZeroLong => exact if_neg (mt hasBits_codeThen.mp h)
  case clLen | lit | eob | litlenReserved286 | litlenReserved287 => exact if_neg (mt hasBits_code.mp h)
  all_goals first
    | exact exec_length_truncated (align := 0) rfl h
    | exact absurd rfl isDist

/-- Settles O37: the next state is that of the raise. -/
theorem truncatedElementRaises : Obligations.TruncatedElementRaises := by
  unfold Obligations.TruncatedElementRaises
  intro s i inSrc hn short previous begun
  exact ⟨_, _, exec_truncated inSrc hn short previous begun⟩

/-! ### No element -/

/-- After a length part the element start is still that of the length code, and raising there is raising before the
length part (43_block_body.md R214; 60_exceptions.md R336). -/
theorem exec_length_raise {q : MatchPart} (isLength : i.asLength ≠ none) (h : exec i s = .next t)
    (begun : t.matchPart = some q) : t.startFor .dsym = s.p ∧ ∀ err e, t.raise err e = s.raise err e := by
  obtain ⟨⟨sym, n, lext⟩, view⟩ := Option.ne_none_iff_exists'.mp isLength
  rw [(exec_of_asLength view s).1, lengthPart] at h
  rcases reading_cases (codeReads n ++ [lbits (sym - 257)]) s.p s _ with ⟨_, hr⟩ | ⟨_, hr⟩
  · obtain rfl := Host.Outcome.next.inj (hr.symm.trans h)
    cases begun
  · obtain rfl := Host.Outcome.next.inj (hr.symm.trans h)
    exact ⟨rfl, fun _ _ => rfl⟩

/-- The error a failed decode raises, where it raises one (40_bitcursor.md R127; 41_huffman.md R156; 42_dynamic_trees.md
R187). -/
def DecodeError.raised : DecodeError → ErrCode
  | .truncated => .truncatedStream
  | .invalidCode => .invalidCode
  | _ => .invalidStream

theorem raiseDecode_raises {err : DecodeError} (coded : err ≠ .noTableEntry) (e : Word) (s : State) :
    raiseDecode err e s = .next (s.raise err.raised e) := by
  cases err with
  | noTableEntry => exact absurd rfl coded
  | _ => rfl

/-- Settles O5: the step is the raise of the decode, at P or, after a length part, at the start of its code. -/
theorem undecodableElementRaises : Obligations.UndecodableElementRaises := by
  unfold Obligations.UndecodableElementRaises
  refine ⟨fun s f err undisturbed format notDist failed coded => ?_,
    fun s t i q rest err undisturbed format decoded isLength run begun failed coded => ?_⟩
  · rw [step_undisturbed undisturbed, elementStep_some format, runElement_error failed, startFor_of_ne notDist,
      raiseDecode_raises coded]
    exact ⟨_, _, continueMatch_other fun _ ht _ => Host.Outcome.next.inj ht ▸ rfl⟩
  · obtain ⟨start, raised⟩ := exec_length_raise isLength run begun
    rw [step_undisturbed undisturbed, elementStep_some format, runElement_ok decoded, run, continueMatch_length begun,
      runElement_error failed, start, raiseDecode_raises coded, raised]
    exact ⟨_, _, rfl⟩

end Sys2Proof.Machine

/-! ## A step depends on the stream bits it consumes alone

The engine and its twin, which reads another source, are compared element by element: where the two sources agree on the
bits an element takes, both decode it, and it does the same on both but for the bits the reader has buffered. -/

namespace Sys2Proof.Machine

variable {s t u : State} {f : Format} {i : Instr} {src m : Memory}

/-! ### What a decode looks at -/

theorem streamBits_congr {p w : Nat} (h : ∀ a, p ≤ a → a < p + w → streamBit m a = streamBit src a) :
    streamBits m p w = streamBits src p w := by
  induction w generalizing p with
  | zero => rfl
  | succ w ih =>
    rw [streamBits, streamBits, h p (Nat.le_refl p) (by omega), ih fun a ha hb => h a (by omega) (by omega)]

/-- The pad of a stored header may hold anything (30_encoding.md R91; 44_block_machine.md R251). -/
theorem decode_storedHdr_pad {c : DecodeCtx} {pad pad' : List Bool} (bits : List Bool)
    (h : pad.length = padOf c.align) (h' : pad'.length = padOf c.align) :
    decode .sh32 c (pad' ++ bits) = decode .sh32 c (pad ++ bits) := by
  simp only [decode, List.length_append, h, h', List.drop_left' h, List.drop_left' h']

theorem width_of_format_sh32 (h : i.format = .sh32) (align : Nat) : i.width align = padOf align + 32 := by
  cases i <;> first | rfl | cases h

/-- A decode from the stream takes the bits of the element's width, whatever follows them. -/
theorem decode_streamBits {c : DecodeCtx} {p len : Nat} {rest : List Bool}
    (h : decode f c (streamBits src p len) = .ok (i, rest)) :
    ∃ extra, len = i.width c.align + extra ∧
      ∀ rest', decode f c (streamBits src p (i.width c.align) ++ rest') = .ok (i, rest') := by
  obtain ⟨_, used, taken, width, same⟩ := decode_ok h
  rw [Nat.zero_add] at width
  have length := congrArg List.length taken
  rw [length_streamBits, List.length_append, width] at length
  rw [length, streamBits_add] at taken
  rw [(List.append_inj taken (by rw [length_streamBits, width])).1]
  exact ⟨_, length, same⟩

/-- Another source that agrees on the bits an element takes, the pad of a stored header excepted, gives the same
element. -/
theorem decode_agree {c : DecodeCtx} {p len : Nat} {rest : List Bool}
    (h : decode f c (streamBits src p len) = .ok (i, rest))
    (agree : ∀ a, p ≤ a → a < p + i.width c.align → ¬ (f = .sh32 ∧ a < p + padOf c.align) →
      streamBit m a = streamBit src a) : ∃ rest', decode f c (streamBits m p len) = .ok (i, rest') := by
  obtain ⟨extra, rfl, same⟩ := decode_streamBits h
  refine ⟨streamBits m (p + i.width c.align) extra, ?_⟩
  rw [streamBits_add]
  by_cases header : f = .sh32
  · subst header
    have width := width_of_format_sh32 (decode_ok h).1.format c.align
    have fields : streamBits m (p + padOf c.align) 32 = streamBits src (p + padOf c.align) 32 :=
      streamBits_congr fun a ha hb => agree a (by omega) (by omega) fun hpad => by omega
    rw [← same, width, streamBits_add, streamBits_add, List.append_assoc, List.append_assoc, fields]
    exact decode_storedHdr_pad _ (length_streamBits ..) (length_streamBits ..)
  · rw [streamBits_congr fun a ha hb => agree a ha hb fun hpad => header hpad.1]
    exact same _

/-! ### What a completed element does -/

/-- A completed element moves P by its width (10_state.md R22; 40_bitcursor.md R122). -/
theorem Completes.p_eq (h : Completes s i t) : t.p = s.p + BitVec.ofNat 32 (i.width (s.p.toNat % 8)) := by
  cases h with
  | storedHdr => simp [Instr.width, padOf_mod, BitVec.ofNat_add, BitVec.add_assoc]
  | storedEnd => exact (BitVec.add_zero _).symm
  | clRepPrev => simp [State.afterRepeat, Instr.width, sum_codeReads, BitVec.ofNat_add, BitVec.add_assoc]
  | length view =>
    obtain ⟨_, _, _, _, width⟩ := exec_of_asLength view s
    simp [width, sum_codeReads]
  | distance view =>
    obtain ⟨_, _, _, width⟩ := exec_of_asDistance view s
    simp [width, sum_codeReads]
  | _ => simp [State.afterRepeat, Instr.width, sum_codeReads]

/-- The state with another source, and with other bits buffered. -/
def State.withSource (s : State) (m : Memory) (c : BitCursor) : State := { s with src := m, cursor := c }

theorem closeLens_withSource {t' : State} {c : BitCursor} (twin : t' = t.withSource m c) :
    Host.Outcome.next t'.closeLens = (.next (t.closeLens.withSource m c) : Res) := by
  subst twin
  rcases closeLens_cases t with ⟨hc, e⟩ | ⟨hc, e⟩ <;> rw [e]
  · exact congrArg Host.Outcome.next (if_pos hc)
  · exact congrArg Host.Outcome.next (if_neg hc)

theorem closeCllen_withSource {t' : State} {c : BitCursor} (twin : t' = t.withSource m c) :
    Host.Outcome.next t'.closeCllen = (.next (t.closeCllen.withSource m c) : Res) := by
  subst twin
  rcases closeCllen_cases t with ⟨hc, e⟩ | ⟨hc, e⟩ <;> rw [e]
  · exact congrArg Host.Outcome.next (if_pos hc)
  · exact congrArg Host.Outcome.next (if_neg hc)

theorem repeatLens_withSource {t' : State} {c : BitCursor} {v : BitVec 4} {cnt rs width : Nat} {e : Word}
    (twin : t' = t.withSource m c) (fits : t.num.toNat + cnt ≤ t.totalLens) :
    repeatLens v cnt rs width e t' = .next ((t.afterRepeat v cnt rs width e).withSource m c) := by
  subst twin
  exact (if_neg (Nat.not_lt.mpr fits)).trans (closeLens_withSource rfl)

/-- No element reads the source but through the reader's buffer: one that completes does the same on another source, but
for the bits buffered (40_bitcursor.md R131). -/
theorem Completes.exec_withSource (h : Completes s i t) (m : Memory) (c : BitCursor) :
    ∃ c', exec i (s.withSource m c) = .next (t.withSource m c') := by
  cases h with
  | bfinal _ bits | btypeStored bits | btypeFixed bits | btypeDynamic bits | hlit _ bits | hdist _ bits | hclen _ bits
    | eob _ bits => exact ⟨_, if_pos bits⟩
  | storedHdr _ _ bits complement => exact ⟨_, (if_neg (not_not_intro bits)).trans (if_neg (not_not_intro complement))⟩
  | storedByte _ bits room | lit _ _ bits room => exact ⟨_, (if_pos bits).trans (if_neg room)⟩
  | storedEnd => exact ⟨_, rfl⟩
  | cllen _ bits => exact ⟨_, (if_pos bits).trans (closeCllen_withSource rfl)⟩
  | clLen _ _ bits => exact ⟨_, (if_pos bits).trans (closeLens_withSource rfl)⟩
  | clRepPrev _ _ bits previous extra fits =>
    exact ⟨_, (if_pos bits).trans ((if_neg previous).trans ((if_pos extra).trans (repeatLens_withSource rfl fits)))⟩
  | clZeroShort _ _ bits fits | clZeroLong _ _ bits fits =>
    exact ⟨_, (if_pos bits).trans (repeatLens_withSource rfl fits)⟩
  | length view bits =>
    rw [(exec_of_asLength view _).1]
    exact ⟨_, if_pos bits⟩
  | @distance _ d n dext q view begun bits back whole =>
    have twin : (s.withSource m c).matchPart = some q := begun
    have near : ¬ (matchDistance d dext = 0 ∨ s.outlen.toNat < matchDistance d dext) := by omega
    simp only [(exec_of_asDistance view _).1, distancePart, twin]
    exact ⟨_, (if_pos bits).trans ((if_neg near).trans (if_pos whole))⟩

/-! ### The step -/

/-- An element that does not raise was decoded and completed. -/
theorem runElement_completes (h : runElement f s = .next t) (quiet : ¬ Raises s f t) :
    ∃ i rest, decode f s.decodeCtx s.fetchBits = .ok (i, rest) ∧ Completes s i t := by
  cases decoded : decode f s.decodeCtx s.fetchBits with
  | ok r =>
    rw [runElement_ok decoded] at h
    exact ⟨r.1, r.2, rfl, (exec_cases h).resolve_left ((decode_ok decoded).1.format ▸ quiet)⟩
  | error err =>
    rw [runElement_error decoded] at h
    by_cases coded : err = .noTableEntry
    · subst coded
      cases h
    · rw [raiseDecode_raises coded] at h
      obtain rfl := Host.Outcome.next.inj h
      exact absurd (.fault f err.raised (by cases err <;> decide)) quiet

/-- A completed element whose bits were fetched ends past its start by its width, with no wrap (10_state.md R22). -/
theorem Completes.p_toNat {rest : List Bool} (h : Completes s i t) (hn : s.runN.toNat < 2 ^ 29)
    (inSrc : s.p.toNat ≤ 8 * s.runN.toNat) (decoded : decode f s.decodeCtx s.fetchBits = .ok (i, rest)) :
    t.p.toNat = s.p.toNat + i.width (s.p.toNat % 8) := by
  have bits := hasBits_of_decode inSrc decoded
  rw [State.hasBits] at bits
  rw [h.p_eq, BitVec.toNat_add, BitVec.toNat_ofNat]
  omega

/-- The source `m` agrees with that of `s` on the stream bits from `s` to `t`, the pad excepted where a stored header
starts at `s`. -/
def SourceAgrees (m : Memory) (header : Prop) (s t : State) : Prop :=
  ∀ a, s.p.toNat ≤ a → a < t.p.toNat → ¬ (header ∧ a < s.p.toNat + padOf s.p.toNat) → streamBit m a = streamBit s.src a

theorem format_of_phase_storedHdr (format : s.elementFormat = some f) (header : s.phase = .storedHdr) : f = .sh32 := by
  rw [State.elementFormat, header] at format
  exact (Option.some.inj format).symm

/-- Sources that agree on what a step may look at agree on what its first element may look at. -/
theorem sourceAgrees_of_step (format : s.elementFormat = some f) (within : u.p.toNat ≤ t.p.toNat)
    (agree : SourceAgrees m (s.phase = .storedHdr) s t) : SourceAgrees m (f = .sh32) s u := fun a ha hb hpad =>
  agree a ha (Nat.lt_of_lt_of_le hb within) fun ⟨header, inPad⟩ =>
    hpad ⟨format_of_phase_storedHdr format header, inPad⟩

/-- An element that does not raise only reads, and does the same on another source that agrees on its bits. -/
theorem runElement_withSource (hn : s.runN.toNat < 2 ^ 29) (inSrc : s.p.toNat ≤ 8 * s.runN.toNat)
    (h : runElement f s = .next t) (quiet : ¬ Raises s f t) :
    Reads s t ∧ s.p.toNat ≤ t.p.toNat ∧
      (SourceAgrees m (f = .sh32) s t → ∀ c, ∃ c', runElement f (s.withSource m c) = .next (t.withSource m c')) := by
  obtain ⟨i, rest, decoded, done⟩ := runElement_completes h quiet
  have moved := done.p_toNat hn inSrc decoded
  refine ⟨done.reads hn, by omega, fun agree c => ?_⟩
  obtain ⟨rest', decoded'⟩ := decode_agree (m := m) decoded fun a ha hb hpad =>
    agree a ha (moved ▸ hb) fun header => hpad ⟨header.1, (padOf_mod s.p.toNat).symm ▸ header.2⟩
  obtain ⟨c', run⟩ := done.exec_withSource m c
  exact ⟨c', (runElement_ok (s := s.withSource m c) decoded').trans run⟩

/-- An element step that does not raise does the same on another source that agrees on what it may look at: the bits of
its element, or those of its length part and then those of its distance part. -/
theorem elementStep_withSource (hs : s.Inv) (h : elementStep s = .next t) (quiet : t.phase ≠ .error)
    (agree : SourceAgrees m (s.phase = .storedHdr) s t) (c : BitCursor) :
    ∃ c', elementStep (s.withSource m c) = .next (t.withSource m c') := by
  have inSrc := hs.posInSrc
  have bound := hs.runNBound
  rcases elementStep_cases h with ⟨format, rfl⟩ | ⟨f, format, run, whole⟩ | ⟨u, q, format, run, begun, second⟩
  · exact ⟨c, elementStep_none format⟩
  · obtain ⟨_, _, twin⟩ := runElement_withSource bound inSrc run fun raised => quiet raised.phase
    obtain ⟨c', run'⟩ := twin (sourceAgrees_of_step format (Nat.le_refl _) agree) c
    refine ⟨c', ?_⟩
    rw [elementStep_some (s := s.withSource m c) format, run']
    exact if_neg whole
  · obtain ⟨reads, first, twin⟩ :=
      runElement_withSource (m := m) bound inSrc run fun raised => by cases raised.matchPart.symm.trans begun
    obtain ⟨_, rest, twin'⟩ := runElement_withSource (m := m) (reads.runN ▸ bound) (reads.runN ▸ reads.pos inSrc) second
      fun raised => quiet raised.phase
    have body := sourceAgrees_of_step (m := m) format (Nat.le_refl _) agree
    obtain ⟨c', run'⟩ := twin (sourceAgrees_of_step format rest agree) c
    obtain ⟨c'', run''⟩ := twin' (fun a ha hb _ => reads.src ▸ body a (by omega) hb nofun) c'
    refine ⟨c'', ?_⟩
    rw [elementStep_some (s := s.withSource m c) format, run']
    exact (continueMatch_length (t := u.withSource m c') begun).trans run''

/-- Settles O52: an element decodes from its own bits and reads no others, so a step does the same on the twin. -/
theorem stepDependsOnItsBitsAlone : Obligations.StepDependsOnItsBitsAlone := by
  unfold Obligations.StepDependsOnItsBitsAlone
  intro s t m hs undisturbed h quiet agree
  have twin : (s.withSource m s.cursor).Undisturbed := undisturbed
  obtain ⟨c, h'⟩ := elementStep_withSource hs ((step_undisturbed undisturbed).symm.trans h) quiet agree s.cursor
  exact ⟨c, (step_undisturbed twin).trans h'⟩

end Sys2Proof.Machine

/-! ## The symbols of a built table -/

namespace Sys2Proof.Machine

variable {lengths : List Nat}

/-- What a built table lists: the symbols of nonzero length (41_huffman.md R150). -/
theorem mem_build_symbols (h : lengths.length < 512) (h15 : ∀ l ∈ lengths, l ≤ 15) (x : BitVec 9) :
    x ∈ (build lengths).symbols ↔ x.toNat < lengths.length ∧ lengths.getD x.toNat 0 ≠ 0 := by
  simp only [build, List.mem_map, List.mem_flatMap, List.mem_range'_1, mem_symbolsOfLength]
  constructor
  · rintro ⟨i, ⟨l, hl, hi, rfl⟩, rfl⟩
    rw [BitVec.toNat_ofNat, Nat.mod_eq_of_lt (by omega)]
    exact ⟨hi, by omega⟩
  · rintro ⟨hi, hne⟩
    have hle : lengths.getD x.toNat 0 ≤ 15 := by
      rw [List.getD_eq_getElem?_getD, List.getElem?_eq_getElem hi, Option.getD_some]
      exact h15 _ (List.getElem_mem hi)
    exact ⟨x.toNat, ⟨_, by omega, hi, rfl⟩, BitVec.eq_of_toNat_eq (Nat.mod_eq_of_lt x.isLt)⟩

/-- `symbols` goes up by length and, within a length, by symbol number (41_huffman.md R150). -/
theorem build_symbols_sorted (h : lengths.length < 512) :
    (build lengths).symbols.Pairwise (fun x y =>
      lengths.getD x.toNat 0 < lengths.getD y.toNat 0 ∨
        (lengths.getD x.toNat 0 = lengths.getD y.toNat 0 ∧ x.toNat < y.toNat)) := by
  have number {l i : Nat} (hi : i ∈ symbolsOfLength lengths l) :
      (BitVec.ofNat 9 i).toNat = i ∧ lengths.getD i 0 = l := by
    obtain ⟨hlt, hl⟩ := mem_symbolsOfLength.mp hi
    exact ⟨by rw [BitVec.toNat_ofNat, Nat.mod_eq_of_lt (by omega)], hl⟩
  rw [build, List.pairwise_map, List.pairwise_flatMap]
  constructor
  · intro l _
    refine (List.pairwise_lt_range.filter _).imp_of_mem fun hi hj hlt => .inr ?_
    obtain ⟨ni, li⟩ := number hi
    obtain ⟨nj, lj⟩ := number hj
    rw [ni, nj, li, lj]
    exact ⟨rfl, hlt⟩
  · refine (List.pairwise_lt_range' 1).imp fun hlt i hi j hj => .inl ?_
    obtain ⟨ni, li⟩ := number hi
    obtain ⟨nj, lj⟩ := number hj
    rw [ni, nj, li, lj]
    exact hlt

/-- No symbol is listed twice. -/
theorem build_symbols_nodup (h : lengths.length < 512) : (build lengths).symbols.Nodup :=
  (build_symbols_sorted h).imp fun before same => by subst same; omega

/-- Settles O11: `build` lists the symbols length by length, each length in the order of the alphabet. -/
theorem buildSortsSymbolsByLength : Obligations.BuildSortsSymbolsByLength := by
  unfold Obligations.BuildSortsSymbolsByLength
  intro lengths h288 h15
  obtain ⟨zero, total, _⟩ := build_legal lengths 288 h288 (by decide)
  refine ⟨zero, fun l h1 hl => ?_, build_symbols_sorted (by omega), mem_build_symbols (by omega) h15, total⟩
  rw [build_count lengths (by omega), if_neg (by omega), length_symbolsOfLength]

end Sys2Proof.Machine

/-! ## What decodes is a canonical code -/

namespace Sys2Proof.Machine

variable {t : Tree} {n sym k : Nat} {x : BitVec 9} {bits rest : List Bool}

/-- A number that is `u` with the bit `b` after it, before its last `w` bits, is sent as `b` and then those `w` bits
(20_memory.md R66). -/
theorem codeBits_of_div {v w u : Nat} {b : Bool} (h : v / 2 ^ w = 2 * u + b.toNat) :
    v / 2 ^ (w + 1) = u ∧ codeBits (w + 1) v = b :: codeBits w v := by
  have bit : v.testBit w = b := by
    rw [Nat.testBit_eq_decide_div_mod_eq, h]
    cases b <;> simp [Nat.add_mod]
  have split := div_two_pow_eq v w
  rw [bit] at split
  exact ⟨by omega, by rw [codeBits_succ, bit]⟩

/-- Where the decode loop ends with a symbol after bits of value `v`, and `cur` is how far `v` lies past the codes of
its own length, the symbol is the `k`-th of its length and `v` and the bits read are its code (41_huffman.md R154,
R155). This is the converse of `decodeLoop_code`. -/
theorem code_of_decodeLoop (fuel : Nat) : ∀ (len sum v : Nat) (cur : Int) (bits : List Bool),
    decodeLoop t fuel len sum cur bits = .ok (sym, n, rest) → sum = firstSlot t (len + 1) → 0 ≤ cur →
    2 * cur + firstCode t (len + 1) = 2 * v →
    ∃ m k x, n = len + (m + 1) ∧ k < t.count n ∧ t.symbols[firstSlot t n + k]? = some x ∧ x.toNat = sym ∧
      (firstCode t n + k) / 2 ^ (m + 1) = v ∧ bits = codeBits (m + 1) (firstCode t n + k) ++ rest := by
  induction fuel with
  | zero => intro _ _ _ _ _ h; cases h
  | succ fuel ih =>
    intro len sum v cur bits h hsum hcur hv
    cases bits with
    | nil => cases h
    | cons b bits =>
      simp only [decodeLoop] at h
      split at h
      case isTrue hneg =>
        split at h
        · rename_i x hx
          cases h
          obtain ⟨k, hk⟩ := Int.eq_ofNat_of_zero_le (show 0 ≤ 2 * cur + (b.toNat : Int) by omega)
          have slot : ((sum + t.count (len + 1) : Nat) + (2 * cur + (b.toNat : Int) - (t.count (len + 1) : Int))).toNat =
              firstSlot t (len + 1) + k := by omega
          obtain ⟨value, code⟩ := codeBits_of_div (v := firstCode t (len + 1) + k) (w := 0) (u := v) (b := b)
            (by rw [Nat.pow_zero, Nat.div_one]; omega)
          exact ⟨0, k, x, rfl, by omega, slot ▸ hx, rfl, value, by rw [code]; rfl⟩
        · cases h
      case isFalse hpos =>
        have next_first : firstCode t (len + 1 + 1) = 2 * (firstCode t (len + 1) + t.count (len + 1)) := rfl
        obtain ⟨m, k, x, rfl, hk, hx, hsym, value, rfl⟩ :=
          ih (len + 1) _ (2 * v + b.toNat) _ _ h (by rw [hsum]; rfl) (by omega) (by omega)
        obtain ⟨value', code⟩ := codeBits_of_div value
        exact ⟨m + 1, k, x, by omega, hk, hx, hsym, value', by rw [code]; rfl⟩

/-- The `k`-th symbol of length `n` has the code `code(n) + k`, where that has `n` bits (41_huffman.md R154, R159). -/
theorem encodeSymbol_slot (nodup : t.symbols.Nodup) (hk : k < t.count n)
    (hx : t.symbols[firstSlot t n + k]? = some x) (fits : firstCode t n + k < 2 ^ n) :
    encodeSymbol t n x.toNat = some (codeBits n (firstCode t n + k)) := by
  obtain ⟨hlt, rfl⟩ := List.getElem?_eq_some_iff.mp hx
  have first : ((t.symbols.drop (firstSlot t n)).take (t.count n)).findIdx?
      (fun y => y.toNat = (t.symbols[firstSlot t n + k]).toNat) = some k := by
    rw [List.findIdx?_eq_some_iff_getElem]
    refine ⟨by rw [List.length_take, List.length_drop]; omega, by simp, fun j hj same => ?_⟩
    simp only [List.getElem_take, List.getElem_drop, decide_eq_true_eq] at same
    exact List.pairwise_iff_getElem.mp nodup _ _ _ hlt (Nat.add_lt_add_left hj _) (BitVec.eq_of_toNat_eq same)
  simp only [encodeSymbol, first, if_pos fits]

/-- Whatever decodes, in a tree that lists no symbol twice, is the canonical code of its symbol. -/
theorem encodeSymbol_of_decodeSymbol (nodup : t.symbols.Nodup) (h : decodeSymbol t bits = .ok (sym, n, rest)) :
    ∃ code, encodeSymbol t n sym = some code ∧ bits = code ++ rest := by
  obtain ⟨m, k, x, hn, hk, hx, rfl, value, hbits⟩ := code_of_decodeLoop _ 0 0 0 0 bits h rfl (Int.le_refl 0) rfl
  rw [Nat.zero_add] at hn
  rw [← hn] at value hbits
  have fits : firstCode t n + k < 2 ^ n := (Nat.div_eq_zero_iff_lt (Nat.two_pow_pos n)).mp value
  exact ⟨_, encodeSymbol_slot nodup hk hx fits, hbits⟩

/-- Settles O13: the loop run forwards over a code is `decodeSymbol_encodeSymbol`, run backwards from its answer
`encodeSymbol_of_decodeSymbol`. -/
theorem decodesExactlyTheCanonicalCodes : Obligations.DecodesExactlyTheCanonicalCodes := by
  unfold Obligations.DecodesExactlyTheCanonicalCodes
  intro lengths h288 _ sym n bits rest
  constructor
  · intro h
    obtain ⟨h1, h15, _⟩ := decodeSymbol_ok h
    exact ⟨h1, h15, encodeSymbol_of_decodeSymbol (build_symbols_nodup (by omega)) h⟩
  · rintro ⟨h1, h15, code, hcode, rfl⟩
    exact (decodeSymbol_encodeSymbol rest h1 h15 hcode).1

end Sys2Proof.Machine

/-! ## A decode that fails -/

namespace Sys2Proof.Machine

/-- The decode loop fails at an entry the table does not hold, or by the bits that are left (41_huffman.md R156, R157). -/
theorem decodeLoop_error (t : Tree) (fuel : Nat) : ∀ (len sum : Nat) (cur : Int) (bits : List Bool) (err : DecodeError),
    decodeLoop t fuel len sum cur bits = .error err →
    err = .noTableEntry ∨ err = if bits.length < fuel then .truncated else .invalidCode := by
  induction fuel with
  | zero => intro _ _ _ _ _ h; cases h; exact .inr rfl
  | succ fuel ih =>
    intro len sum cur bits err h
    cases bits with
    | nil => cases h; exact .inr rfl
    | cons b bits =>
      simp only [decodeLoop] at h
      split at h
      · split at h <;> cases h
        exact .inl rfl
      · simpa only [List.length_cons, Nat.succ_lt_succ_iff] using ih _ _ _ _ _ h

theorem decodeSymbol_error {t : Tree} {bound : Nat} {bits : List Bool} {err : DecodeError} (ht : t.Legal bound)
    (h : decodeSymbol t bits = .error err) : err = if bits.length < 15 then .truncated else .invalidCode :=
  (decodeLoop_error t _ _ _ _ _ _ h).resolve_left fun entry => decodeSymbol_entry ht bits (entry ▸ h)

/-- Settles O16: a legal table has the entries its decodes end at, so a decode fails by the bits left; and one of the
empty tree fails, as it has no symbol to end with. -/
theorem decodeFailsByTheBitsLeft : Obligations.DecodeFailsByTheBitsLeft := by
  unfold Obligations.DecodeFailsByTheBitsLeft
  refine ⟨fun t bound bits err => decodeSymbol_error, fun bits => ?_⟩
  cases h : decodeSymbol Tree.empty bits with
  | error err => rw [decodeSymbol_error (bound := 0) (by decide) h]
  | ok answer =>
    obtain ⟨sym, n, rest⟩ := answer
    obtain ⟨_, _, ⟨x, hx, _⟩, _⟩ := decodeSymbol_ok h
    cases hx

end Sys2Proof.Machine

/-! ## The placement algorithm of R151 -/

namespace Sys2Proof.Machine

theorem symbolsOfLength_concat (seen : List Nat) (c l : Nat) :
    symbolsOfLength (seen ++ [c]) l = symbolsOfLength seen l ++ if c = l then [seen.length] else [] := by
  have before : (List.range seen.length).filter (fun i => (seen ++ [c]).getD i 0 = l) = symbolsOfLength seen l :=
    List.filter_congr fun i hi => by
      rw [List.getD_eq_getElem?_getD, List.getElem?_append_left (List.mem_range.mp hi), ← List.getD_eq_getElem?_getD]
  have last : (seen ++ [c]).getD seen.length 0 = c := by
    rw [List.getD_eq_getElem?_getD, List.getElem?_concat_length, Option.getD_some]
  rw [symbolsOfLength, List.length_append, List.length_singleton, List.range_succ, List.filter_append, before,
    List.filter_cons, List.filter_nil, last]
  simp only [decide_eq_true_eq]

/-- The entries of length `l` when the lengths `seen` have been placed and `rest` are to come: the symbols placed, and
the initial zeros of those that are not. -/
def placedBlock (seen rest : List Nat) (l : Nat) : List (BitVec 9) :=
  (symbolsOfLength seen l).map (BitVec.ofNat 9) ++ List.replicate (rest.count l) 0

/-- `symbols` when the lengths `seen` have been placed and `rest` are to come. -/
def placed (seen rest : List Nat) : List (BitVec 9) := (List.range' 1 15).flatMap (placedBlock seen rest)

/-- How many symbols have lengths 1 to `m`: `offs[m + 1]` before any is placed (41_huffman.md R151). -/
def countUpTo (lengths : List Nat) (m : Nat) : Nat := ((List.range' 1 m).map lengths.count).sum

theorem length_placedBlocks (seen rest : List Nat) (m : Nat) :
    ((List.range' 1 m).flatMap (placedBlock seen rest)).length = countUpTo (seen ++ rest) m := by
  simp only [List.length_flatMap, placedBlock, List.length_append, List.length_map, length_symbolsOfLength,
    List.length_replicate, countUpTo, List.count_append]

theorem placedBlock_other {seen rest : List Nat} {c l : Nat} (h : c ≠ l) :
    placedBlock (seen ++ [c]) rest l = placedBlock seen (c :: rest) l := by
  rw [placedBlock, symbolsOfLength_concat, if_neg h, List.append_nil, placedBlock, List.count_cons_of_ne h]

theorem placedBlock_same (seen rest : List Nat) (c : Nat) :
    (placedBlock seen (c :: rest) c).set (seen.count c) (BitVec.ofNat 9 seen.length) =
      placedBlock (seen ++ [c]) rest c := by
  rw [placedBlock, placedBlock, symbolsOfLength_concat, if_pos rfl, List.count_cons_self, List.replicate_succ,
    List.set_append_right _ _ (Nat.le_of_eq (by rw [List.length_map, length_symbolsOfLength])), List.length_map,
    length_symbolsOfLength, Nat.sub_self, List.set_cons_zero, List.map_append, List.append_assoc]
  rfl

theorem flatMap_congr_of_mem {α β : Type} {f g : α → List β} {xs : List α} (h : ∀ x ∈ xs, f x = g x) :
    xs.flatMap f = xs.flatMap g := by
  rw [List.flatMap_def, List.flatMap_def, List.map_congr_left h]

/-- The placement of one symbol: it goes to the first free entry of its length, and no other entry changes. -/
theorem placed_set (seen rest : List Nat) {m : Nat} (hm : m < 15) :
    (placed seen ((m + 1) :: rest)).set (countUpTo (seen ++ (m + 1) :: rest) m + seen.count (m + 1))
      (BitVec.ofNat 9 seen.length) = placed (seen ++ [m + 1]) rest := by
  have cut : List.range' 1 15 = List.range' 1 m ++ (m + 1) :: List.range' (m + 2) (14 - m) := by
    rw [show List.range' 1 15 = List.range' 1 (m + (14 - m + 1)) by congr 1; omega, ← List.range'_append_1,
      Nat.add_comm 1 m, List.range'_succ]
  have others (ls : List Nat) (h : m + 1 ∉ ls) :
      ls.flatMap (placedBlock (seen ++ [m + 1]) rest) = ls.flatMap (placedBlock seen ((m + 1) :: rest)) :=
    flatMap_congr_of_mem fun l hl => placedBlock_other fun same => h (same ▸ hl)
  have inside : seen.count (m + 1) < (placedBlock seen ((m + 1) :: rest) (m + 1)).length := by
    simp [placedBlock, length_symbolsOfLength]
  simp only [placed, cut, List.flatMap_append, List.flatMap_cons]
  rw [others _ (by simp [Nat.add_comm m 1]), others _ (by simp), ← placedBlock_same,
    ← length_placedBlocks seen ((m + 1) :: rest), List.set_append_right _ _ (Nat.le_add_right _ _),
    Nat.add_sub_cancel_left, List.set_append_left _ _ inside]

theorem placed_zero (seen rest : List Nat) : placed (seen ++ [0]) rest = placed seen (0 :: rest) :=
  flatMap_congr_of_mem fun l hl => placedBlock_other (by have := List.mem_range'_1.mp hl; omega)

/-- `offs[l]` is past the symbols of shorter lengths and those of length `l` placed so far, so the loop places them
all. -/
theorem placeLoop_placed (rest : List Nat) : ∀ (seen offs : List Nat), (∀ l ∈ rest, l ≤ 15) →
    (∀ m < 15, offs[m + 1]? = some (countUpTo (seen ++ rest) m + seen.count (m + 1))) →
    placeLoop seen.length rest offs (placed seen rest) = placed (seen ++ rest) [] := by
  induction rest with
  | nil => intro seen _ _ _; rw [placeLoop, List.append_nil]
  | cons c rest ih =>
    intro seen offs h15 hoffs
    obtain ⟨hc, hrest⟩ := List.forall_mem_cons.mp h15
    have whole : seen ++ c :: rest = (seen ++ [c]) ++ rest := List.append_cons ..
    have next := ih (seen ++ [c])
    rw [List.length_append, List.length_singleton, ← whole] at next
    cases c with
    | zero =>
      rw [placeLoop, if_pos rfl, ← placed_zero]
      refine next offs hrest fun m hm => ?_
      rw [hoffs m hm, List.count_append]
      simp
    | succ m =>
      have free := hoffs m hc
      rw [placeLoop, if_neg (Nat.succ_ne_zero m), List.getD_eq_getElem?_getD, free, Option.getD_some,
        placed_set seen rest hc]
      refine next _ hrest fun l hl => ?_
      rw [List.count_append, List.getElem?_set]
      split
      case isTrue same =>
        obtain rfl : m = l := by omega
        rw [if_pos (List.getElem?_eq_some_iff.mp free).1, List.count_singleton_self]
        rfl
      case isFalse other =>
        rw [hoffs l hl, List.count_singleton, if_neg (by simpa using other)]
        rfl

theorem getElem?_prefixSums (cs : List Nat) : ∀ (s l : Nat), l < cs.length →
    (prefixSums s cs)[l]? = some (s + (cs.take l).sum) := by
  induction cs with
  | nil => intro _ _ h; cases h
  | cons c cs ih =>
    intro s l h
    cases l with
    | zero => rfl
    | succ l =>
      rw [prefixSums, List.getElem?_cons_succ, ih _ _ (Nat.lt_of_succ_lt_succ h), List.take_succ_cons, List.sum_cons,
        Nat.add_assoc]

/-- The counts with `counts[0]` forced to 0 (41_huffman.md R151). -/
theorem map_counts (lengths : List Nat) :
    ((List.range 16).map fun l => if l = 0 then 0 else lengths.count l) = 0 :: (List.range' 1 15).map lengths.count := by
  rw [List.range_eq_range', List.range'_succ, List.map_cons, if_pos rfl]
  exact congrArg _ (List.map_congr_left fun l hl => if_neg (by have := List.mem_range'_1.mp hl; omega))

theorem placed_nil_left (lengths : List Nat) :
    placed [] lengths = List.replicate (0 :: (List.range' 1 15).map lengths.count).sum 0 := by
  rw [List.eq_replicate_iff, List.sum_cons, Nat.zero_add]
  refine ⟨length_placedBlocks [] lengths 15, fun x hx => ?_⟩
  obtain ⟨l, _, hx⟩ := List.mem_flatMap.mp hx
  exact List.eq_of_mem_replicate hx

theorem placed_nil_right (lengths : List Nat) : placed lengths [] = (build lengths).symbols := by
  rw [build, List.map_flatMap]
  exact flatMap_congr_of_mem fun l _ => List.append_nil _

/-- Settles O12: the placement starts from entries that are all free and ends with the symbols listed length by length
(`placeLoop_placed`). -/
theorem buildIsThePlacementAlgorithm : Obligations.BuildIsThePlacementAlgorithm := by
  unfold Obligations.BuildIsThePlacementAlgorithm
  intro lengths _ h15
  have counts : (build lengths).counts = (buildByPlacement lengths).counts := by
    refine congrArg Vector.ofFn (funext fun l => ?_)
    simp only [length_symbolsOfLength]
    split <;> simp [*]
  have symbols : (build lengths).symbols = (buildByPlacement lengths).symbols := by
    have loop := placeLoop_placed lengths [] (prefixSums 0 (0 :: (List.range' 1 15).map lengths.count)) h15
      fun m hm => by
        rw [getElem?_prefixSums _ _ _ (by simpa using Nat.succ_lt_succ hm), List.take_succ_cons, ← List.map_take,
          List.take_range'_of_length_ge (Nat.le_of_lt hm)]
        simp [countUpTo]
    rw [placed_nil_left] at loop
    simp only [buildByPlacement, map_counts]
    exact (placed_nil_right lengths).symm.trans loop.symm
  exact (Tree.mk.injEq ..).mpr ⟨counts, symbols⟩

end Sys2Proof.Machine

/-! ## The fixed trees -/

namespace Sys2Proof.Machine

/-- Settles O14, by computing the two builds. -/
theorem fixedTreesAreBuilds : Obligations.FixedTreesAreBuilds := by
  unfold Obligations.FixedTreesAreBuilds
  exact ⟨by decide +kernel, by decide +kernel⟩

theorem fixedLit_nodup : fixedLit.symbols.Nodup :=
  fixedTreesAreBuilds.1 ▸ build_symbols_nodup (by decide +kernel)

theorem fixedDist_nodup : fixedDist.symbols.Nodup :=
  fixedTreesAreBuilds.2 ▸ build_symbols_nodup (by decide)

/-- A run of `w` symbols from `a` on, listed one after the other from the `off`-th entry of length `n`, has codes that
follow one another (41_huffman.md R154). -/
theorem encodeSymbol_run {t : Tree} {n off first a w j : Nat} (before after : List Nat) (nodup : t.symbols.Nodup)
    (listed : t.symbols = (before ++ (List.range' a w ++ after)).map (BitVec.ofNat 9))
    (slot : firstSlot t n + off = before.length) (code : firstCode t n + off = first) (room : off + w ≤ t.count n)
    (fits : first + w ≤ 2 ^ n) (small : a + w ≤ 512) (hj : j < w) :
    encodeSymbol t n (a + j) = some (codeBits n (first + j)) := by
  have entry : t.symbols[firstSlot t n + (off + j)]? = some (BitVec.ofNat 9 (a + j)) := by
    rw [listed, ← Nat.add_assoc, slot, List.getElem?_map, List.getElem?_append_right (Nat.le_add_right _ _),
      Nat.add_sub_cancel_left, List.getElem?_append_left (by simpa using hj), List.getElem?_range' hj, Nat.one_mul]
    rfl
  have encoded := encodeSymbol_slot nodup (by omega) entry (by omega)
  rwa [BitVec.toNat_ofNat, Nat.mod_eq_of_lt (by omega), ← Nat.add_assoc, code] at encoded

/-- A row of the table of R163 for FLT: `w` symbols from `a` on, with codes of `n` bits from `first` on. -/
theorem fixedLit_row {n off first a w sym : Nat} (before after : List Nat)
    (listed : before ++ (List.range' a w ++ after) =
      List.range' 256 24 ++ List.range' 0 144 ++ List.range' 280 8 ++ List.range' 144 112)
    (slot : firstSlot fixedLit n + off = before.length) (code : firstCode fixedLit n + off = first)
    (room : off + w ≤ fixedLit.count n) (fits : first + w ≤ 2 ^ n) (small : a + w ≤ 512) (ha : a ≤ sym)
    (hw : sym < a + w) : encodeSymbol fixedLit n sym = some (codeBits n (first + (sym - a))) := by
  obtain ⟨j, rfl⟩ := Nat.exists_eq_add_of_le ha
  rw [Nat.add_sub_cancel_left]
  exact encodeSymbol_run before after fixedLit_nodup (listed ▸ rfl) slot code room fits small (by omega)

/-- Settles O15: each row of the table is a run of symbols in the literal content of its tree. -/
theorem fixedCodesAreTheTable : Obligations.FixedCodesAreTheTable := by
  unfold Obligations.FixedCodesAreTheTable
  refine ⟨fun sym h => ?_, fun sym h h' => ?_, fun sym h h' => ?_, fun sym h h' => ?_, fun sym h => ?_⟩
  · exact fixedLit_row (off := 0) (a := 0) (w := 144) (List.range' 256 24) (List.range' 280 8 ++ List.range' 144 112)
      (by simp) rfl rfl (by decide) (by decide) (by decide) (Nat.zero_le _) (by omega)
  · exact fixedLit_row (off := 0) (w := 112) (List.range' 256 24 ++ List.range' 0 144 ++ List.range' 280 8) []
      (by simp) (by decide +kernel) rfl (by decide) (by decide) (by decide) h h'
  · rw [← Nat.zero_add (sym - 256)]
    exact fixedLit_row (off := 0) (w := 24) [] (List.range' 0 144 ++ List.range' 280 8 ++ List.range' 144 112)
      (by simp) rfl rfl (by decide) (by decide) (by decide) h h'
  · exact fixedLit_row (off := 144) (w := 8) (List.range' 256 24 ++ List.range' 0 144) (List.range' 144 112)
      (by simp) rfl rfl (by decide) (by decide) (by decide) h h'
  · have run := encodeSymbol_run (n := 5) (off := 0) (first := 0) (a := 0) (w := 32) [] [] fixedDist_nodup
      (by rw [fixedDist, List.range_eq_range', List.append_nil, List.nil_append]) rfl rfl (by decide) (by decide)
      (by decide) h
    rwa [Nat.zero_add] at run

end Sys2Proof.Machine

/-! ## The dynamic block header (42_dynamic_trees.md R180 to R193)

An element whose bits are there takes the branch of `reading` that goes on (`if_pos`), with P moved past them. What is
left to say of each is the value of its field, the entries of LENS it fills, and what the builds leave in the table
memories. -/

namespace Sys2Proof.Machine

variable {s : State} {i : Instr}

/-! ### A read whose bits are there -/

/-- The state with P past the `width` bits of an element, whatever the buffered reader `c` then holds. -/
def State.past (s : State) (width : Nat) (c : BitCursor) : State :=
  { s with p := s.p + BitVec.ofNat 32 width, cursor := c }

/-- Fields of `width` bits in all are passed together (40_bitcursor.md R122, R123). -/
theorem advance_past (s : State) {ws : List Nat} {width : Nat} (sum : ws.sum = width) :
    ∃ c, s.advance ws = s.past width c := by
  subst sum
  exact ⟨_, rfl⟩

theorem advance_code (s : State) (n : Nat) : ∃ c, s.advance (codeReads n) = s.past n c :=
  advance_past s (sum_codeReads n)

theorem advance_codeThen (s : State) (n x : Nat) : ∃ c, s.advance (codeReads n ++ [x]) = s.past (n + x) c :=
  advance_past s (by rw [List.sum_append, sum_codeReads, List.sum_singleton])

theorem past_past (s : State) (m n : Nat) (c c' : BitCursor) : (s.past m c).past n c' = s.past (m + n) c' := by
  have sum : s.p + BitVec.ofNat 32 (m + n) = s.p + BitVec.ofNat 32 m + BitVec.ofNat 32 n := by
    rw [BitVec.ofNat_add, BitVec.add_assoc]
  simp only [State.past, sum]

/-- A code and its extra bits, read apart, are passed as when read together. -/
theorem advance_code_advance (s : State) (n x : Nat) :
    ∃ c, (s.advance (codeReads n)).advance [x] = s.past (n + x) c := by
  obtain ⟨c, code⟩ := advance_code s n
  obtain ⟨c', extra⟩ := advance_past (s.past n c) (List.sum_singleton (x := x))
  exact ⟨c', by rw [code, extra, past_past]⟩

/-- Where a code and its extra bits are there, the extra bits are there past the code, even if P wrapped. -/
theorem hasBits_advance_code {n x : Nat} (bits : s.hasBits (n + x)) : (s.advance (codeReads n)).hasBits [x].sum := by
  have wrapped : (s.advance (codeReads n)).p.toNat ≤ s.p.toNat + n := by
    rw [State.advance_p, sum_codeReads, BitVec.toNat_add, BitVec.toNat_ofNat, Nat.add_mod_mod]
    exact Nat.mod_le _ _
  simp only [State.hasBits, State.advance_runN, List.sum_singleton] at bits ⊢
  omega

section
variable {f : Format} {w : Nat} {mk : BitVec w → Instr}

/-- A format of one field decodes the field at P, where its bits are left (40_bitcursor.md R123). -/
theorem decode_fetchBits (oneField : ∀ bits, decode f s.decodeCtx bits = takeField w bits fun v r => .ok (mk v, r))
    (longest : w ≤ longestElement) (bits : s.hasBits w) : ∃ rest, decode f s.decodeCtx s.fetchBits =
      .ok (mk (BitVec.ofNat w (bitsToNat (streamBits s.src s.p.toNat w))), rest) := by
  obtain ⟨more, split⟩ := Nat.exists_eq_add_of_le (Nat.le_min.mpr ⟨longest, Nat.le_sub_of_add_le' bits⟩)
  rw [oneField, State.fetchBits, split, streamBits_add]
  exact ⟨_, takeField_of_length (length_streamBits _ _ _)⟩

/-- Where fewer bits are left than the field has, it does not decode (40_bitcursor.md R127). -/
theorem decode_fetchBits_truncated
    (oneField : ∀ bits, decode f s.decodeCtx bits = takeField w bits fun v r => .ok (mk v, r)) (nonempty : 0 < w)
    (short : ¬ s.hasBits w) : decode f s.decodeCtx s.fetchBits = .error .truncated := by
  rw [oneField]
  refine if_pos ?_
  rw [State.fetchBits, length_streamBits]
  omega

end

/-! ### The counts -/

theorem hlitValue_eq (v : BitVec 5) : hlitValue v = v.setWidth 9 + 257 := by
  rw [hlitValue, BitVec.ofNat_add, BitVec.ofNat_toNat, BitVec.add_comm]
  rfl

theorem hdistValue_eq (v : BitVec 5) : hdistValue v = v.setWidth 6 + 1 := by
  rw [hdistValue, BitVec.ofNat_add, BitVec.ofNat_toNat, BitVec.add_comm]
  rfl

theorem hclenValue_eq (v : BitVec 4) : hclenValue v = v.setWidth 5 + 4 := by
  rw [hclenValue, BitVec.ofNat_add, BitVec.ofNat_toNat, BitVec.add_comm]
  rfl

/-- Settles O26: each count is its field and its base, and the reserved fields raise. -/
theorem dynamicCountElements : Obligations.DynamicCountElements := by
  unfold Obligations.DynamicCountElements
  refine ⟨fun s v bits _ => ?_, fun s low bits => ⟨_, _, if_pos bits⟩, fun s v bits => ?_, fun s v bits => ?_⟩
  · rw [← hlitValue_eq]
    exact ⟨_, if_pos bits⟩
  · rw [← hdistValue_eq]
    exact ⟨_, if_pos bits⟩
  · rw [← hclenValue_eq]
    exact ⟨_, if_pos bits⟩

/-- The count an HDIST field at P gives (42_dynamic_trees.md R181). -/
theorem hdistValue_field (src : Memory) (p : Nat) :
    hdistValue (BitVec.ofNat 5 (bitsToNat (streamBits src p 5))) =
      BitVec.ofNat 6 (1 + bitsToNat (streamBits src p 5)) := by
  have small := bitsToNat_lt (streamBits src p 5)
  rw [length_streamBits] at small
  rw [hdistValue, BitVec.toNat_ofNat, Nat.mod_eq_of_lt small]

/-- Settles O21: the step runs the HDIST element of the field at P, or raises for a field that is not all there. -/
theorem hdistStepReadsTheCount : Obligations.HdistStepReadsTheCount := by
  unfold Obligations.HdistStepReadsTheCount
  intro s undisturbed phase
  have format : s.elementFormat = some .f5d := by rw [State.elementFormat, phase]
  have oneField : ∀ bits, decode .f5d s.decodeCtx bits = takeField 5 bits fun v r => .ok (.hdist v, r) := fun _ => rfl
  by_cases bits : s.hasBits 5
  · obtain ⟨rest, decoded⟩ := decode_fetchBits oneField (by decide) bits
    rw [if_neg (Nat.not_lt.mpr bits), stepRunsTheDecodedElement s .f5d _ rest undisturbed format decoded rfl,
      ← hdistValue_field]
    exact ⟨_, if_pos bits⟩
  · have failed := decode_fetchBits_truncated oneField (by decide) bits
    rw [if_pos (Nat.lt_of_not_le bits)]
    exact undecodableElementRaises.1 s .f5d .truncated undisturbed format (by decide) failed (by decide)

/-! ### The code-length alphabet -/

/-- Settles O27: the build of 19 lengths fits the table memory of CLT. -/
theorem codeLengthAlphabetElement : Obligations.CodeLengthAlphabetElement := by
  unfold Obligations.CodeLengthAlphabetElement
  intro s v bits sym cllen r
  have written := s.clt.store_written (cllen.toList.map BitVec.toNat) (by simp) (by decide) (by decide) (by decide)
  exact ⟨_, _, written, if_pos bits⟩

/-! ### The code lengths -/

/-- The end of a code-length step, with what the builds leave in the table memories (42_dynamic_trees.md R185, R192;
41_huffman.md R151, R153). -/
theorem closeLens_written (s : State) : ∃ dlt ddt,
    (s.hlit.toNat ≤ 286 → s.dlt.Written (build s.litLens) dlt) ∧
    (s.hdist.toNat ≤ 32 → s.ddt.Written (build s.distLens) ddt) ∧
    s.closeLens = if s.num.toNat = s.hlit.toNat + s.hdist.toNat then
      { s with dlt := dlt, ddt := ddt, active := 1, phase := .body } else s := by
  refine ⟨_, _, fun small => ?_, fun small => ?_, rfl⟩
  · refine s.dlt.store_written s.litLens ?_ (by decide) (by decide) (by decide)
    exact Nat.le_trans (List.length_take_le _ _) small
  · refine s.ddt.store_written s.distLens ?_ (by decide) (by decide) (by decide)
    exact Nat.le_trans (List.length_take_le _ _) small

/-- Settles O28: the element sets one length and ends as every code-length step does. -/
theorem codeLengthElement : Obligations.CodeLengthElement := by
  unfold Obligations.CodeLengthElement
  intro s n len bits lens ls r
  obtain ⟨c, moved⟩ := advance_code s n
  obtain ⟨dlt, ddt, lit, dist, closed⟩ := closeLens_written
    (({ s.past n c with lens := lens, num := s.num + 1 } : State).emit r)
  have run : exec (.clLen n len) s =
      .next (({ s.advance (codeReads n) with lens := lens, num := s.num + 1 } : State).emit r).closeLens :=
    if_pos (hasBits_code.mpr bits)
  rw [moved, closed] at run
  exact ⟨c, dlt, ddt, lit, dist, run⟩

/-! ### The repeats -/

/-- The three repeat symbols, each with the bits it has, how many lengths it sets, its symbol, and the length it repeats
(42_dynamic_trees.md R187, R188, R189). -/
inductive Repeats (s : State) : Instr → (width cnt rs : Nat) → BitVec 4 → Prop
  | prev (n : Nat) (rep : BitVec 2) (previous : s.num ≠ 0) :
      Repeats s (.clRepPrev n rep) (n + 2) (rep.toNat + 3) 16 s.previousLen
  | zeroShort (n : Nat) (rep : BitVec 3) : Repeats s (.clZeroShort n rep) (n + 3) (rep.toNat + 3) 17 0
  | zeroLong (n : Nat) (rep : BitVec 7) : Repeats s (.clZeroLong n rep) (n + 7) (rep.toNat + 11) 18 0

variable {width cnt rs : Nat} {v : BitVec 4}

/-- Every repeat whose bits are there runs the one tail `fill`, with P past them (42_dynamic_trees.md R190). Symbol 16
reads its extra bits apart from its code (R187). -/
theorem Repeats.exec_eq (h : Repeats s i width cnt rs v) (bits : s.hasBits width) :
    ∃ c, exec i s = repeatLens v cnt rs width s.p (s.past width c) := by
  cases h with
  | prev n rep previous =>
    obtain ⟨c, moved⟩ := advance_code_advance s n 2
    have code : s.hasBits n := by simp only [State.hasBits] at bits ⊢; omega
    rw [Nat.add_comm rep.toNat]
    refine ⟨c, moved ▸ (if_pos (hasBits_code.mpr code)).trans ((if_neg previous).trans ?_)⟩
    exact if_pos (hasBits_advance_code bits)
  | zeroShort n rep =>
    obtain ⟨c, moved⟩ := advance_codeThen s n 3
    rw [Nat.add_comm rep.toNat]
    exact ⟨c, moved ▸ if_pos (hasBits_codeThen.mpr bits)⟩
  | zeroLong n rep =>
    obtain ⟨c, moved⟩ := advance_codeThen s n 7
    rw [Nat.add_comm rep.toNat]
    exact ⟨c, moved ▸ if_pos (hasBits_codeThen.mpr bits)⟩

theorem affectedSymbols_eq (num : BitVec 9) (cnt : Nat) :
    affectedSymbols num.toNat cnt = (List.range cnt).map fun k => num + BitVec.ofNat 9 k := by
  rw [affectedSymbols, List.range'_eq_map_range, List.map_map]
  refine List.map_congr_left fun k _ => ?_
  rw [Function.comp_apply, BitVec.ofNat_add, BitVec.ofNat_toNat, BitVec.setWidth_eq]

/-- Settles O29: a repeat within HLIT + HDIST fills its entries and ends as every code-length step does. -/
theorem repeatElements : Obligations.RepeatElements := by
  unfold Obligations.RepeatElements
  intro s i width cnt sym v kind bits fits r
  obtain ⟨rs, rfl, h⟩ : ∃ rs, sym = BitVec.ofNat 5 rs ∧ Repeats s i width cnt rs v := by
    rcases kind with ⟨n, rep, rfl, previous, rfl, rfl, rfl, last⟩ | ⟨n, rep, rfl, rfl, rfl, rfl, rfl⟩ |
      ⟨n, rep, rfl, rfl, rfl, rfl, rfl⟩
    · have last : v = s.previousLen := by rw [State.previousLen, last, Option.getD_some]
      subst last
      exact ⟨16, rfl, .prev n rep previous⟩
    · exact ⟨17, rfl, .zeroShort n rep⟩
    · exact ⟨18, rfl, .zeroLong n rep⟩
  obtain ⟨c, run⟩ := h.exec_eq bits
  have fits : ¬ (s.past width c).totalLens < (s.past width c).num.toNat + cnt := Nat.not_lt.mpr fits
  obtain ⟨dlt, ddt, lit, dist, closed⟩ := closeLens_written
    (({ s.past width c with lens := fillLens v cnt s.num.toNat s.lens, num := s.num + BitVec.ofNat 9 cnt } : State).emit
      r)
  rw [repeatLens, if_neg fits, affectedSymbols_eq] at run
  refine ⟨c, fillLens v cnt s.num.toNat s.lens, dlt, ddt, fun k inLens => ?_, lit, dist,
    run.trans (congrArg Host.Outcome.next closed)⟩
  simp only [fillLens_getElem?, inLens, and_true]

/-- Settles O30: the tail `fill` raises before it sets a length, and symbol 16 raises before its extra bits. -/
theorem repeatFaults : Obligations.RepeatFaults := by
  unfold Obligations.RepeatFaults
  refine ⟨fun s i width cnt kind bits past => ?_, fun s n rep noLength bits => ?_⟩
  · obtain ⟨rs, v, h⟩ : ∃ rs v, Repeats s i width cnt rs v := by
      rcases kind with ⟨n, rep, rfl, previous, rfl, rfl⟩ | ⟨n, rep, rfl, rfl, rfl⟩ | ⟨n, rep, rfl, rfl, rfl⟩
      · exact ⟨_, _, .prev n rep previous⟩
      · exact ⟨_, _, .zeroShort n rep⟩
      · exact ⟨_, _, .zeroLong n rep⟩
    obtain ⟨c, run⟩ := h.exec_eq bits
    exact ⟨_, _, run.trans (if_pos past)⟩
  · exact ⟨_, _, (if_pos (hasBits_code.mpr bits)).trans (if_pos noLength)⟩

end Sys2Proof.Machine

/-! ## The block body (43_block_body.md R210 to R223)

A literal, an end of block, a reserved symbol and a length part are each one `reading`. A distance part goes on to the
byte-serial copy, whose one idea is that the memory it leaves repeats itself at the distance over the whole copy
(`copyLoop_repeats`): a byte is never written again, so what was read for it still stands `dist` bytes before it. -/

namespace Sys2Proof.Machine

variable {s : State} {i : Instr}

/-! ### The tables -/

/-- Settles O17: every row of both tables is compared with the next. -/
theorem lengthAndDistanceTables : Obligations.LengthAndDistanceTables := by
  unfold Obligations.LengthAndDistanceTables
  decide

/-- No length row starts below 3 or reaches past 258 (43_block_body.md R215). -/
theorem lbase_bounds : ∀ row, row ≤ 28 → 3 ≤ lbase row ∧ lbase row + 2 ^ lbits row ≤ 259 := by decide

/-- No distance is 0 (43_block_body.md R217). -/
theorem dbase_pos : ∀ d, d ≤ 29 → 0 < dbase d := by decide

/-! ### Literals, the end of a block and the reserved symbols -/

/-- A code whose bits are there is passed (40_bitcursor.md R123, R127). -/
theorem reading_code {n : Nat} (bits : s.hasBits n) (e : Word) (k : State → Res) :
    ∃ c, reading (codeReads n) e s k = k (s.past n c) := by
  obtain ⟨c, moved⟩ := advance_code s n
  exact ⟨c, moved ▸ reading_pos (hasBits_code.mpr bits)⟩

/-- A code and its extra bits are passed together, where both are there (40_bitcursor.md R123, R127). -/
theorem reading_codeThen {n x : Nat} (bits : s.hasBits (n + x)) (e : Word) (k : State → Res) :
    ∃ c, reading (codeReads n ++ [x]) e s k = k (s.past (n + x) c) := by
  obtain ⟨c, moved⟩ := advance_codeThen s n x
  exact ⟨c, moved ▸ reading_pos (hasBits_codeThen.mpr bits)⟩

/-- P does not wrap over bits that are there (10_state.md R22). -/
theorem past_toNat {n : Nat} (hn : s.runN.toNat < 2 ^ 29) (bits : s.hasBits n) (c : BitCursor) :
    (s.past n c).p.toNat = s.p.toNat + n := by
  have wide : s.p.toNat + n < 2 ^ 32 := by rw [State.hasBits] at bits; omega
  rw [State.past, BitVec.toNat_add, BitVec.toNat_ofNat, Nat.add_mod_mod, Nat.mod_eq_of_lt wide]

/-- Settles O31: each element's bits are there, and its guard decides. The end of block alone needs P not to wrap. -/
theorem literalEndAndReservedElements : Obligations.LiteralEndAndReservedElements := by
  unfold Obligations.LiteralEndAndReservedElements
  refine ⟨fun s n v bits room => ?_, fun s n v bits full => ?_, fun s n bits hn => ?_, fun s n i reserved bits => ?_⟩
  · rw [exec, execLit]
    exact (reading_code bits _ _).imp fun c run => run.trans (if_neg room)
  · exact ⟨_, _, (if_pos (hasBits_code.mpr bits)).trans (if_pos full)⟩
  · rw [exec, execEob]
    refine (reading_code bits _ _).imp fun c run => run.trans ?_
    rw [← past_toNat hn bits c]
    rfl
  · rcases reserved with rfl | rfl <;> exact ⟨_, _, if_pos (hasBits_code.mpr bits)⟩

/-- A code that decodes from the bits fetched at P is there (40_bitcursor.md R127). -/
theorem hasBits_of_decodeSymbol {t : Tree} {sym n : Nat} {rest : List Bool}
    (h : decodeSymbol t s.fetchBits = .ok (sym, n, rest)) : s.hasBits n := by
  obtain ⟨nonempty, _, _, code, split, length, _⟩ := decodeSymbol_ok h
  have fetched := congrArg List.length split
  rw [State.fetchBits, length_streamBits, List.length_append, length] at fetched
  rw [State.hasBits]
  omega

theorem takeCode_of_error {t : Tree} {bits : List Bool} {err : DecodeError} (k : Nat → Nat → List Bool → Decoded)
    (h : decodeSymbol t bits = .error err) : takeCode t bits k = .error err := by
  simp only [takeCode, h]

theorem elementFormat_body (phase : s.phase = .body) (noMatch : s.matchPart = none) :
    s.elementFormat = some .llsym := by
  simp only [State.elementFormat, phase, noMatch]
  rfl

/-- Settles O22: the step runs the literal the symbol decodes to, or raises what the decode of the symbol met. -/
theorem literalStepAppendsTheByte : Obligations.LiteralStepAppendsTheByte := by
  unfold Obligations.LiteralStepAppendsTheByte
  intro s undisturbed phase noMatch
  have format := elementFormat_body phase noMatch
  obtain ⟨appends, overflows, _, _⟩ := literalEndAndReservedElements
  have raises (err : DecodeError) (coded : err ≠ .noTableEntry) (h : decodeSymbol s.litTree s.fetchBits = .error err) :=
    undecodableElementRaises.1 s .llsym err undisturbed format (by decide) (takeCode_of_error decodeLitLen h) coded
  rw [← noMatch] at raises
  refine ⟨fun sym n rest symbol small => ?_, raises .truncated (by decide), raises .invalidCode (by decide)⟩
  have bits := hasBits_of_decodeSymbol symbol
  have decoded : decode .llsym s.decodeCtx s.fetchBits = .ok (.lit n (BitVec.ofNat 8 sym), rest) :=
    (takeCode_of_ok decodeLitLen symbol).trans (if_pos small)
  rw [stepRunsTheDecodedElement s .llsym _ rest undisturbed format decoded rfl]
  split
  next full =>
    have raised := overflows s n (BitVec.ofNat 8 sym) bits full
    rwa [← noMatch] at raised
  next room => exact appends s n _ bits room

/-! ### Length parts -/

/-- Settles O32: the table bounds the length, and P moves past the code and its extra bits. -/
theorem lengthElements : Obligations.LengthElements := by
  unfold Obligations.LengthElements
  intro s i sym n lext view bits
  obtain ⟨run, _, last, below, _⟩ := exec_of_asLength view s
  obtain ⟨low, high⟩ := lbase_bounds (sym - 257) (by omega)
  rw [run, lengthPart, matchLength]
  -- The unifier would compute the row from an open symbol.
  generalize sym - 257 = row at *
  exact ⟨by omega, by omega, reading_codeThen bits _ _⟩

/-- Settles O4: a step that has a length part in hand goes on with the distance part. -/
theorem stepRunsLengthThenDistance : Obligations.StepRunsLengthThenDistance := by
  unfold Obligations.StepRunsLengthThenDistance
  intro s t i j q rest rest' undisturbed format decoded _ run begun decoded'
  rw [step_undisturbed undisturbed, elementStep_some format, runElement_ok decoded, run, continueMatch_length begun,
    runElement_ok decoded']

/-! ### The copy -/

section
variable {cap : Word} {dist k : Nat} {m : Memory} {o : Word} {acc : List Byte}

theorem copyLoop_full (full : o = cap) : copyLoop cap dist (k + 1) m o acc =
    { dst := m, outlen := o, produced := acc, complete := false } := if_pos full

theorem copyLoop_room (room : o ≠ cap) : copyLoop cap dist (k + 1) m o acc =
    copyLoop cap dist k (m.write o.toNat (m.read (o.toNat - dist))) (o + 1) (acc ++ [m.read (o.toNat - dist)]) :=
  if_neg room

end

/-- The memory a copy leaves repeats itself at the distance over the whole copy (43_block_body.md R219). -/
theorem copyLoop_repeats (cap : Word) (dist length : Nat) (positive : 0 < dist) (m : Memory) (o : Word)
    (acc : List Byte) (hm : m.wf) (ho : o.toNat ≤ cap.toNat) (back : dist ≤ o.toNat) (a : Nat) (after : o.toNat ≤ a)
    (below : a < (copyLoop cap dist length m o acc).outlen.toNat) :
    (copyLoop cap dist length m o acc).dst.read a = (copyLoop cap dist length m o acc).dst.read (a - dist) := by
  induction length generalizing m o acc with
  | zero => exact absurd below (Nat.not_lt.mpr after)
  | succ k ih =>
    by_cases room : o = cap
    · rw [copyLoop_full room] at below
      exact absurd below (Nat.not_lt.mpr after)
    · rw [copyLoop_room room] at below ⊢
      have lt : o.toNat < cap.toNat := Nat.lt_of_le_of_ne ho fun e => room (BitVec.eq_of_toNat_eq e)
      have grown : (o + 1).toNat = o.toNat + 1 :=
        BitVec.toNat_add_of_lt (show o.toNat + 1 < 2 ^ 32 from Nat.lt_of_le_of_lt lt cap.isLt)
      have wf := Memory.write_wf m o.toNat (m.read (o.toNat - dist)) hm
      rcases Nat.eq_or_lt_of_le after with rfl | later
      · have frame := (copyLoop_spec cap dist k _ (o + 1) (acc ++ [m.read (o.toNat - dist)]) wf (by omega)).frame
        rw [frame _ (.inl (by omega)), frame _ (.inl (by omega)), Memory.read_write_same _ _ _ hm,
          Memory.read_write_other _ _ _ _ (by omega)]
      · exact ih _ _ _ wf (by omega) (by omega) (by omega) below

/-- What the copy of a back-reference leaves, byte by byte: the bytes it produced, each read `dist` bytes before it, in
DST from OUTLEN on, and every other byte of DST as it was (43_block_body.md R219). -/
structure Copied (s : State) (dist : Nat) (r : CopyResult) : Prop where
  outlen : r.outlen.toNat = s.outlen.toNat + r.produced.length
  byte : ∀ k, k < r.produced.length → r.produced[k]? =
    if k < dist then some (s.dst.read (s.outlen.toNat - dist + k)) else r.produced[k - dist]?
  wf : r.dst.wf
  read : ∀ a, r.dst.read a = if s.outlen.toNat ≤ a ∧ a < r.outlen.toNat
    then r.produced.getD (a - s.outlen.toNat) 0 else s.dst.read a

theorem copyMatch_copied (hdst : s.dst.wf) (hout : s.outlen.toNat ≤ s.runC.toNat) {length dist : Nat}
    (positive : 0 < dist) (back : dist ≤ s.outlen.toNat) : Copied s dist (s.copyMatch length dist) := by
  have copy := copyMatch_spec length dist hdst hout
  have repeats := copyLoop_repeats s.runC dist length positive s.dst s.outlen [] hdst hout back
  rw [← State.copyMatch] at repeats
  generalize s.copyMatch length dist = r at copy repeats
  obtain ⟨new, produced, grown, _, stands, _⟩ := copy.produced
  rw [List.nil_append] at produced
  subst produced
  have stands (k : Nat) (hk : k < r.produced.length) : r.produced[k]? = some (r.dst.read (s.outlen.toNat + k)) := by
    rw [stands k hk, List.getElem?_eq_getElem hk]
  refine ⟨grown, fun k hk => ?_, copy.wf, fun a => ?_⟩
  · rw [stands k hk, repeats _ (Nat.le_add_right _ _) (by omega)]
    split
    next before => rw [copy.frame _ (.inl (by omega)), Nat.sub_add_comm back]
    next within => rw [stands _ (by omega), Nat.add_sub_assoc (by omega)]
  · split
    next inside =>
      rw [List.getD_eq_getElem?_getD, stands _ (by omega), Option.getD_some, Nat.add_sub_cancel' inside.1]
    next outside => exact copy.frame a (by omega)

/-- A copy that fits the capacity is complete, and one that does not stops there (43_block_body.md R220). -/
theorem copyMatch_complete (hdst : s.dst.wf) (hout : s.outlen.toNat ≤ s.runC.toNat) (length dist : Nat) :
    (s.copyMatch length dist).complete = true ↔ s.outlen.toNat + length ≤ s.runC.toNat := by
  have copy := copyMatch_spec length dist hdst hout
  obtain ⟨new, _, grown, _, _, whole⟩ := copy.produced
  have within := copy.within
  constructor
  · intro complete
    rw [← whole.mp complete, ← grown]
    exact within
  · intro fits
    cases stopped : (s.copyMatch length dist).complete with
    | true => rfl
    | false =>
      have full := congrArg BitVec.toNat (copy.full stopped)
      exact stopped.symm.trans (whole.mpr (by omega))

/-- A complete copy produced all its bytes. -/
theorem copyMatch_produced {length dist : Nat} (hdst : s.dst.wf) (hout : s.outlen.toNat ≤ s.runC.toNat)
    (complete : (s.copyMatch length dist).complete = true) : (s.copyMatch length dist).produced.length = length := by
  obtain ⟨new, produced, _, _, _, whole⟩ := (copyMatch_spec length dist hdst hout).produced
  rw [produced, List.nil_append, whole.mp complete]

/-! ### Distance parts -/

section
variable {q : MatchPart} {d n dext : Nat}

theorem exec_distance (view : i.asDistance = some (d, n, dext)) (begun : s.matchPart = some q) :
    exec i s = finishMatch q d n dext s := by
  rw [(exec_of_asDistance view s).1, distancePart, begun]

theorem reservedDistance_begun (n : Nat) (begun : s.matchPart = some q) :
    reservedDistance n s = reservedSymbol n q.start s := by
  rw [reservedDistance, begun]

/-- No distance element has the distance 0 (43_block_body.md R217, R218). -/
theorem matchDistance_pos (view : i.asDistance = some (d, n, dext)) : 0 < matchDistance d dext :=
  Nat.add_pos_left (dbase_pos d (exec_of_asDistance view State.reset).2.1) dext

/-- A distance within the output, with its bits there, is copied from (43_block_body.md R218, R219). -/
theorem finishMatch_near (bits : s.hasBits (n + dbits d)) (positive : 0 < matchDistance d dext)
    (back : matchDistance d dext ≤ s.outlen.toNat) :
    ∃ c, finishMatch q d n dext s =
      if (s.copyMatch q.length.toNat (matchDistance d dext)).complete then
        .next (({ s.past (n + dbits d) c with
            dst := (s.copyMatch q.length.toNat (matchDistance d dext)).dst
            outlen := (s.copyMatch q.length.toNat (matchDistance d dext)).outlen
            matchPart := none } : State).emit
          (.lz77 q.length q.sym { index := q.extraAt, length := q.extraBits }
            (BitVec.ofNat 16 (matchDistance d dext)) (BitVec.ofNat 5 d) (spanAt (s.p + BitVec.ofNat 32 n) (dbits d))
            (spanTo q.start (s.past (n + dbits d) c).p) (s.copyMatch q.length.toNat (matchDistance d dext)).produced))
      else
        .next (({ s with
            dst := (s.copyMatch q.length.toNat (matchDistance d dext)).dst
            outlen := (s.copyMatch q.length.toNat (matchDistance d dext)).outlen } : State).raise
          .outputOverflow q.start) := by
  rw [finishMatch]
  exact (reading_codeThen bits _ _).imp fun c run => run.trans (if_neg (by omega))

end

/-- Settles O33: the copy fits, so it is complete and OUTLEN grows by the length. -/
theorem distanceElements : Obligations.DistanceElements := by
  unfold Obligations.DistanceElements
  intro s i q d n dext view begun bits hdst back fits
  have hout : s.outlen.toNat ≤ s.runC.toNat := by omega
  have positive := matchDistance_pos view
  have complete := (copyMatch_complete hdst hout _ (matchDistance d dext)).mpr fits
  have copied := copyMatch_copied hdst hout (length := q.length.toNat) positive back
  have produced := copyMatch_produced hdst hout complete
  obtain ⟨c, run⟩ := finishMatch_near (q := q) bits positive back
  rw [if_pos complete, ← exec_distance view begun] at run
  generalize s.copyMatch q.length.toNat (matchDistance d dext) = r at copied produced run
  obtain ⟨grown, byte, wf, read⟩ := copied
  rw [grown, produced] at read
  rw [produced] at byte grown
  have outlen : r.outlen = s.outlen + q.length.setWidth 32 := by
    have := s.runC.isLt
    apply BitVec.eq_of_toNat_eq
    rw [BitVec.toNat_add, BitVec.toNat_setWidth, grown]
    omega
  rw [outlen] at run
  exact ⟨c, r.dst, r.produced, produced, byte, wf, read, run⟩

/-- Settles O34: the copy does not fit, so it stops at the capacity and raises. -/
theorem distanceOverflowKeepsTheBytesThatFit : Obligations.DistanceOverflowKeepsTheBytesThatFit := by
  unfold Obligations.DistanceOverflowKeepsTheBytesThatFit
  intro s i q d n dext view begun bits hdst back hout past
  have positive := matchDistance_pos view
  have stopped := mt (copyMatch_complete hdst hout q.length.toNat (matchDistance d dext)).mp (Nat.not_le.mpr past)
  have copied := copyMatch_copied hdst hout (length := q.length.toNat) positive back
  have full := (copyMatch_spec _ _ hdst hout).full (Bool.eq_false_iff.mpr stopped)
  obtain ⟨c, run⟩ := finishMatch_near (q := q) bits positive back
  rw [if_neg stopped, ← exec_distance view begun] at run
  generalize s.copyMatch q.length.toNat (matchDistance d dext) = r at copied full run
  obtain ⟨grown, byte, wf, read⟩ := copied
  rw [full] at grown read run
  exact ⟨_, _, r.dst, r.produced, by omega, byte, wf, read, run⟩

/-- Settles O35: a distance part raises at the distance check, and a reserved symbol before its extra bits. -/
theorem distanceFaults : Obligations.DistanceFaults := by
  unfold Obligations.DistanceFaults
  refine ⟨fun s i q d n dext view begun bits far => ?_, fun s i q n reserved begun bits => ?_⟩
  · rw [exec_distance view begun]
    exact ⟨_, _, (reading_pos (hasBits_codeThen.mpr bits)).trans (if_pos (.inr far))⟩
  · have run := (reservedDistance_begun n begun).trans (if_pos (hasBits_code.mpr bits))
    rcases reserved with rfl | rfl <;> exact ⟨_, _, run⟩

end Sys2Proof.Machine

/-! ## The block-type machine (44_block_machine.md R240 to R247)

A header step decodes one field at P and runs the element it names, so the step statements rest on those of the
elements. The table of R240 is proved element by element, from what each completion names in its next state. -/

namespace Sys2Proof.Machine

variable {s t : State} {f : Format} {i : Instr}

/-! ### The quiet phases -/

/-- No element is decoded exactly where the engine is not busy (10_state.md R39; 44_block_machine.md R240). -/
theorem elementFormat_eq_none : s.elementFormat = none ↔ s.busy = false := by
  cases phase : s.phase
  case body => cases part : s.matchPart <;> simp [State.elementFormat, State.busy, Phase.statusState, phase, part]
  all_goals simp [State.elementFormat, State.busy, Phase.statusState, phase]

/-- A step that changes nothing emits nothing, so the trace port cannot hold it back (45_trace.md R286). -/
theorem gate_self (s : State) : s.gate (.next s) = .next s := if_neg fun held => held.2 rfl

/-- Settles O6: a quiet phase selects no format, and the gate lets the unchanged state through. -/
theorem quietPhasesDoNothing : Obligations.QuietPhasesDoNothing := by
  unfold Obligations.QuietPhasesDoNothing
  intro s noHost quiet
  have idle : s.busy = false := by rcases quiet with phase | phase | phase <;> rw [State.busy, phase] <;> rfl
  rw [step_engine noHost, engineStep, elementStep_none (elementFormat_eq_none.mpr idle), gate_self]

/-! ### The elements of a block header -/

/-- Settles O23: each element's two bits, or its one, are there. -/
theorem blockHeaderElements : Obligations.BlockHeaderElements := by
  unfold Obligations.BlockHeaderElements
  exact ⟨fun s b bits => ⟨_, if_pos bits⟩, fun s bits => ⟨_, if_pos bits⟩, fun s bits => ⟨_, if_pos bits⟩,
    fun s bits => ⟨_, if_pos bits⟩, fun s bits => ⟨_, _, if_pos bits⟩⟩

/-! ### The stored block -/

/-- LEN and its complement add up to 0xFFFF (44_block_machine.md R244). -/
theorem toNat_not_add_toNat (v : BitVec 16) : (~~~v).toNat + v.toNat = 0xFFFF := by
  rw [BitVec.toNat_not]
  omega

/-- Settles O24: the bits are there, and the complement check decides. -/
theorem storedHeaderElement : Obligations.StoredHeaderElement := by
  unfold Obligations.StoredHeaderElement
  refine ⟨fun s len nlen bits complement => ?_, fun s len nlen bits sum => ?_⟩
  · exact ⟨_, (if_neg (not_not_intro bits)).trans (if_neg (not_not_intro complement))⟩
  · have mismatch : len ≠ ~~~nlen := fun complement => sum (complement ▸ toNat_not_add_toNat nlen)
    exact ⟨_, _, (if_neg (not_not_intro bits)).trans (if_pos mismatch)⟩

/-- Settles O25: the byte is there, and the capacity decides; STORED_REM reaches 0 at its last byte. -/
theorem storedByteAndEndElements : Obligations.StoredByteAndEndElements := by
  unfold Obligations.StoredByteAndEndElements
  refine ⟨fun s v bits room => ?_, fun s v bits full => ?_, fun s => rfl⟩
  · have last : s.storedRem = 1 ↔ s.storedRem - 1 = 0 := by bv_omega
    simp only [last]
    exact ⟨_, (if_pos bits).trans (if_neg room)⟩
  · exact ⟨_, _, (if_pos bits).trans (if_pos full)⟩

/-! ### The steps of a block header -/

section
variable {w : Nat} {mk : BitVec w → Instr}

/-- A step of a phase whose element is one field runs the element of the field at P (30_encoding.md R80). -/
theorem step_field (undisturbed : s.Undisturbed) (format : s.elementFormat = some f)
    (oneField : ∀ bits, decode f s.decodeCtx bits = takeField w bits fun v r => .ok (mk v, r))
    (longest : w ≤ longestElement) (notLength : ∀ v, (mk v).asLength = none) (bits : s.hasBits w) :
    step s = exec (mk (BitVec.ofNat w (bitsToNat (streamBits s.src s.p.toNat w)))) s := by
  obtain ⟨rest, decoded⟩ := decode_fetchBits oneField longest bits
  exact stepRunsTheDecodedElement s f _ rest undisturbed format decoded (notLength _)

/-- It raises TruncatedStream at P where the field is not all there (40_bitcursor.md R127). -/
theorem step_field_truncated (undisturbed : s.Undisturbed) (format : s.elementFormat = some f) (notDist : f ≠ .dsym)
    (oneField : ∀ bits, decode f s.decodeCtx bits = takeField w bits fun v r => .ok (mk v, r)) (nonempty : 0 < w)
    (short : ¬ s.hasBits w) :
    ∃ c k, step s = .next
      { s with errcode := .truncatedStream, phase := .error, matchPart := none, cursor := c, freeCount := k } :=
  undecodableElementRaises.1 s f .truncated undisturbed format notDist
    (decode_fetchBits_truncated oneField nonempty short) nofun

end

/-- A field of one bit is the bit (20_memory.md R66). -/
theorem ofNat_streamBits_one (src : Memory) (p : Nat) :
    BitVec.ofNat 1 (bitsToNat (streamBits src p 1)) = BitVec.ofBool (streamBit src p) := by
  rw [streamBits, streamBits]
  cases streamBit src p <;> rfl

/-- Settles O19: the step runs the BFINAL element of the bit at P, or raises at the end of the source. -/
theorem bfinalStepLatchesTheBit : Obligations.BfinalStepLatchesTheBit := by
  unfold Obligations.BfinalStepLatchesTheBit
  intro s undisturbed phase
  have format : s.elementFormat = some .f1 := by rw [State.elementFormat, phase]
  have oneField : ∀ bits, decode .f1 s.decodeCtx bits = takeField 1 bits fun v r => .ok (.bfinal v, r) := fun _ => rfl
  split
  next short => exact step_field_truncated undisturbed format nofun oneField (by decide) (Nat.not_le.mpr short)
  next long =>
    have bits : s.hasBits 1 := Nat.le_of_not_lt long
    rw [step_field undisturbed format oneField (by decide) (fun _ => rfl) bits, ofNat_streamBits_one]
    exact blockHeaderElements.1 s _ bits

/-- The element of a BTYPE field selects the form of the block, or raises for the reserved value (44_block_machine.md
R242, R243). -/
theorem exec_decodeBtype (bits : s.hasBits 2) (v : BitVec 2) :
    if v = 3 then
      ∃ c k, exec (decodeBtype v.toNat) s = .next
        { s with errcode := .invalidBlockType, phase := .error, matchPart := none, cursor := c, freeCount := k }
    else
      ∃ c, exec (decodeBtype v.toNat) s = .next
        { s with
          p := s.p + 2, cursor := c, btype := v
          active := if v = 1 then 0 else s.active
          phase := if v = 0 then .storedHdr else if v = 1 then .body else .dynHlit
          trace := s.trace ++ [.btype v { index := s.p, length := 2 }], traceCount := s.traceCount + 1 } := by
  obtain ⟨_, stored, fixed, dynamic, reserved⟩ := blockHeaderElements
  have values : ∀ v : BitVec 2, v = 0 ∨ v = 1 ∨ v = 2 ∨ v = 3 := by decide
  rcases values v with rfl | rfl | rfl | rfl
  · exact stored s bits
  · exact fixed s bits
  · exact dynamic s bits
  · exact reserved s bits

theorem asLength_decodeBtype (v : Nat) : (decodeBtype v).asLength = none := by
  unfold decodeBtype
  split <;> rfl

/-- Settles O20: the step runs the element of the two bits at P, or raises where they are not both there. -/
theorem btypeStepSelectsTheBlock : Obligations.BtypeStepSelectsTheBlock := by
  unfold Obligations.BtypeStepSelectsTheBlock
  intro s undisturbed phase
  have format : s.elementFormat = some .f2 := by rw [State.elementFormat, phase]
  have oneField : ∀ bits, decode .f2 s.decodeCtx bits =
      takeField 2 bits fun v r => .ok (decodeBtype v.toNat, r) := fun _ => rfl
  split
  next short => exact step_field_truncated undisturbed format nofun oneField (by decide) (Nat.not_le.mpr short)
  next long =>
    have bits : s.hasBits 2 := Nat.le_of_not_lt long
    rw [step_field undisturbed format oneField (by decide) (fun v => asLength_decodeBtype _) bits]
    exact exec_decodeBtype bits _

/-! ### The phase table -/

/-- `t` is where the phase table leads from `s` (44_block_machine.md R240): a successor of its phase, with one record of
a kind its phase emits. -/
def Follows (s t : State) : Prop :=
  t.phase ∈ s.phase.successors ∧
    ∃ r, r.tag ∈ s.phase.recordTags ∧ t.trace = s.trace ++ [r] ∧ t.traceCount = s.traceCount + 1

theorem closeLens_phase_mem (phase : s.phase = .dynLens) : s.closeLens.phase ∈ Phase.dynLens.successors := by
  rcases closeLens_cases s with ⟨_, closed⟩ | ⟨_, closed⟩ <;> simp [closed, phase, Phase.successors]

theorem closeCllen_phase_mem (phase : s.phase = .dynCllen) : s.closeCllen.phase ∈ Phase.dynCllen.successors := by
  rcases closeCllen_cases s with ⟨_, closed⟩ | ⟨_, closed⟩ <;> simp [closed, phase, Phase.successors]

theorem body_phase_mem (phase : s.phase = .body) : s.phase ∈ Phase.body.successors := by
  rw [phase]
  decide

/-- A choice between two phases of a list is one of them. -/
theorem ite_phase_mem {c : Prop} [Decidable c] {a b : Phase} {phases : List Phase} (ha : a ∈ phases)
    (hb : b ∈ phases) : (if c then a else b) ∈ phases := by
  split
  · exact ha
  · exact hb

/-- A completed element leads to a successor of its phase. -/
theorem Completes.phase_mem (h : Completes s i t) (phase : s.phase = phaseOf i.format) :
    t.phase ∈ (phaseOf i.format).successors := by
  cases h with
  | storedHdr => exact ite_phase_mem (.tail _ (.head _)) (.head _)
  | storedByte => exact ite_phase_mem (.tail _ (.head _)) (by rw [phase]; exact .head _)
  | storedEnd => exact ite_phase_mem (.tail _ (.head _)) (.head _)
  | eob => exact ite_phase_mem (.tail _ (.tail _ (.head _))) (.tail _ (.head _))
  | cllen => exact closeCllen_phase_mem phase
  | clLen | clRepPrev | clZeroShort | clZeroLong => exact closeLens_phase_mem phase
  | lit => exact body_phase_mem phase
  | length view =>
    rw [asLength_format view] at phase ⊢
    exact body_phase_mem phase
  | distance view =>
    rw [asDistance_format view] at phase ⊢
    exact body_phase_mem phase
  | _ => exact List.mem_of_elem_eq_true rfl

/-- A completed element, but for a length part, emits one record of a kind its phase emits. -/
theorem Completes.record (h : Completes s i t) (notLength : i.asLength = none) :
    ∃ r, r.tag ∈ (phaseOf i.format).recordTags ∧ t.trace = s.trace ++ [r] ∧ t.traceCount = s.traceCount + 1 := by
  cases h with
  | length view => cases notLength.symm.trans view
  | distance view =>
    rw [asDistance_format view]
    exact ⟨_, List.mem_of_elem_eq_true rfl, rfl, rfl⟩
  | cllen => exact ⟨_, List.mem_of_elem_eq_true rfl, State.closeCllen_trace _, State.closeCllen_traceCount _⟩
  | clLen | clRepPrev | clZeroShort | clZeroLong =>
    exact ⟨_, List.mem_of_elem_eq_true rfl, State.closeLens_trace _, State.closeLens_traceCount _⟩
  | _ => exact ⟨_, List.mem_of_elem_eq_true rfl, rfl, rfl⟩

/-- A length part leaves the record of the back-reference to the distance part (43_block_body.md R214). -/
theorem Completes.of_length {v : Nat × Nat × Nat} (h : Completes s i t) (view : i.asLength = some v) :
    t.matchPart.isSome = true ∧ t.phase = s.phase ∧ t.trace = s.trace ∧ t.traceCount = s.traceCount := by
  cases h with
  | length => exact ⟨rfl, rfl, rfl, rfl⟩
  | distance view' => cases (asLength_format view).symm.trans (asDistance_format view')
  | _ => cases view

theorem Follows.of_same {u : State} (h : Follows u t) (phase : u.phase = s.phase) (trace : u.trace = s.trace)
    (count : u.traceCount = s.traceCount) : Follows s t := by
  rwa [Follows, phase, trace, count] at h

/-- An element that ends its step raises with no record, or follows the table. -/
theorem runElement_follows (phase : phaseOf f = s.phase) (run : runElement f s = .next t)
    (whole : ¬ (f = .llsym ∧ t.matchPart.isSome = true)) : (t.phase = .error ∧ t.trace = s.trace) ∨ Follows s t := by
  rcases runElement_cases run with raised | ⟨i, decoded, done⟩
  · exact .inl ⟨raised.phase, raised.trace_eq.1⟩
  · have ends : i.asLength = none := Option.eq_none_iff_forall_ne_some.mpr fun v view =>
      whole ⟨decoded.format.symm.trans (asLength_format view), (done.of_length view).1⟩
    have phase : phaseOf i.format = s.phase := decoded.format ▸ phase
    exact .inr ⟨phase ▸ done.phase_mem phase.symm, phase ▸ done.record ends⟩

/-- The first half of a back-reference's step is a length part. -/
theorem runElement_length {q : MatchPart} (format : s.elementFormat = some .llsym)
    (run : runElement .llsym s = .next t) (begun : t.matchPart = some q) :
    t.phase = s.phase ∧ t.trace = s.trace ∧ t.traceCount = s.traceCount := by
  rcases runElement_cases run with raised | ⟨i, _, done⟩
  · cases raised.matchPart.symm.trans begun
  · cases view : i.asLength with
    | none =>
      cases (done.matchPart_of_asLength view (matchPart_of_elementFormat_llsym format)).symm.trans begun
    | some v => exact (done.of_length view).2

/-- Settles O7: the one element of a step follows the table, or the distance part does after a length part. -/
theorem stepFollowsThePhaseTable : Obligations.StepFollowsThePhaseTable := by
  unfold Obligations.StepFollowsThePhaseTable
  intro s t undisturbed busy h
  rw [step_undisturbed undisturbed] at h
  rcases elementStep_cases h with ⟨format, _⟩ | ⟨f, format, run, whole⟩ | ⟨u, q, format, first, begun, second⟩
  · cases busy.symm.trans (elementFormat_eq_none.mp format)
  · exact runElement_follows (elementFormat_phase format) run whole
  · obtain ⟨phase, trace, count⟩ := runElement_length format first begun
    have body : phaseOf .dsym = u.phase := (elementFormat_phase format).trans phase.symm
    exact (runElement_follows body second nofun).imp (fun raised => ⟨raised.1, raised.2.trans trace⟩)
      fun follows => follows.of_same phase trace count

end Sys2Proof.Machine

/-! ## The trace tiles the consumed bits (45_trace.md R278 to R282)

A completed element, but for a length part, emits one record, and `Emits` says all that the tiling and the span lengths
ask of it. A step therefore does nothing, raises at P with no record, or emits from P on:
`elementStep_traceStep`. -/

namespace Sys2Proof.Machine

variable {s t u : State} {f : Format} {i : Instr} {e : Word} {w : Nat} {r : TraceRecord}

/-! ### Spans -/

theorem length_spanAt (e : Word) (h : w < 256) : (spanAt e w).length.toNat = w := Nat.mod_eq_of_lt h

theorem length_spanAt_within {lo hi : Nat} (bounds : lo ≤ w ∧ w ≤ hi) (short : hi < 256) :
    lo ≤ (spanAt e w).length.toNat ∧ (spanAt e w).length.toNat ≤ hi := by
  rwa [length_spanAt e (Nat.lt_of_le_of_lt bounds.2 short)]

/-- The bits from `e` up to `w` bits further are the `w` bits from `e` (45_trace.md R271). -/
theorem spanTo_eq_spanAt {q : Word} (h : q.toNat = e.toNat + w) : spanTo e q = spanAt e w := by
  have length : (q - e).setWidth 8 = BitVec.ofNat 8 w := BitVec.eq_of_toNat_eq (by
    have := e.isLt
    rw [BitVec.toNat_setWidth, BitVec.toNat_sub, BitVec.toNat_ofNat, h]
    omega)
  rw [spanTo, spanAt, length]

/-- A span that starts where a tiling ends carries it on. -/
theorem tiles_append {sp : Span} {a : Nat} {spans : List Span} (h : tiles a spans sp.index.toNat) :
    tiles a (spans ++ [sp]) (sp.index.toNat + sp.length.toNat) := by
  induction spans generalizing a with
  | nil =>
    obtain rfl : a = sp.index.toNat := h
    exact ⟨rfl, rfl⟩
  | cons first rest ih => exact ⟨h.1, ih h.2⟩

/-- Outside DONE the tiling ends at P (45_trace.md R278, R282). -/
theorem tileEnd_of_ne_done (h : t.phase ≠ .done) : t.tileEnd = t.p.toNat := if_neg h

/-! ### The record of an element -/

/-- From `s` to `t` one record was emitted: its span runs from the element start `e` to where the tiling of `t` ends
(45_trace.md R278, R280, R281), and has a length its kind allows (R279). -/
def Emits (s : State) (e : Word) (t : State) : Prop :=
  ∃ r : TraceRecord, t.trace = s.trace ++ [r] ∧ r.span.index = e ∧ e.toNat + r.span.length.toNat = t.tileEnd ∧
    r.LengthOk

theorem Emits.of_span (trace : t.trace = s.trace ++ [r]) (span : r.span = spanAt e w) (short : w < 256)
    (ends : t.tileEnd = e.toNat + w) (lengthOk : r.LengthOk) : Emits s e t := by
  refine ⟨r, trace, by rw [span]; rfl, ?_, lengthOk⟩
  rw [span, length_spanAt e short, ends]

theorem Emits.of_running (trace : t.trace = s.trace ++ [r]) (span : r.span = spanAt e w) (short : w < 256)
    (running : t.phase ≠ .done) (moved : t.p.toNat = e.toNat + w) (lengthOk : r.LengthOk) : Emits s e t :=
  .of_span trace span short ((tileEnd_of_ne_done running).trans moved) lengthOk

/-- A record of the code lengths is of one of the two LZ77 trees (42_dynamic_trees.md R191). -/
theorem lengthOk_codeLength (s : State) (sym : BitVec 9) (len : BitVec 4) (bounds : 1 ≤ w ∧ w ≤ 15) :
    (TraceRecord.codeLength s.lensCategory sym len (spanAt e w)).LengthOk := by
  have within := length_spanAt_within (e := e) bounds (by decide)
  unfold State.lensCategory
  split <;> exact within

/-- An element of a phase that DONE does not follow does not lead to it (44_block_machine.md R240). -/
theorem Completes.phase_ne_done (h : Completes s i t) (phase : phaseOf i.format = s.phase)
    (goesOn : (phaseOf i.format).successors.contains .done = false) : t.phase ≠ .done := fun done => by
  have follows := h.phase_mem phase.symm
  rw [done, ← List.contains_iff_mem, goesOn] at follows
  cases follows

theorem code_bounds {n : Nat} (h : codeLenOk n = true) : 1 ≤ n ∧ n ≤ 15 := by simpa [codeLenOk] using h

/-- The record of an end of block is the code's `n` bits, and the final one also the at most seven bits up to the byte
boundary (45_trace.md R280). -/
theorem eob_width (last : Prop) [Decidable last] {p q n : Nat} (moved : q = p + n) (high : n ≤ 15) :
    (last → roundup8 q = p + if last then roundup8 q - p else n) ∧
      (¬ last → q = p + if last then roundup8 q - p else n) ∧ (if last then roundup8 q - p else n) ≤ 22 := by
  unfold roundup8
  split
  next final => exact ⟨fun _ => by omega, fun notFinal => absurd final notFinal, by omega⟩
  next notFinal => exact ⟨fun final => absurd final notFinal, fun _ => moved, by omega⟩

/-- After the end of a block, `w` bits from `e` on reach the end of the tiling: the byte boundary in DONE (45_trace.md
R280, R281), and P where a block follows. -/
theorem endBlock_tileEnd (final : s.bfinal = 1 → roundup8 s.p.toNat = e.toNat + w)
    (notFinal : s.bfinal ≠ 1 → s.p.toNat = e.toNat + w) : s.endBlock.tileEnd = e.toNat + w := by
  by_cases last : s.bfinal = 1
  · exact (if_pos (if_pos last)).trans (final last)
  · have next : s.endBlock.phase = .hdrBfinal := if_neg last
    exact (tileEnd_of_ne_done (by rw [next]; nofun)).trans (notFinal last)

/-- The record of a completed element, where P moves by the width without a wrap. A length part leaves its record to the
distance part, and the record of a distance part starts at the length part. -/
theorem Completes.emits (h : Completes s i t) (phase : phaseOf i.format = s.phase) (hs : s.PhaseOk)
    (decoded : DecodedAs f (s.p.toNat % 8) i) (moved : t.p.toNat = s.p.toNat + i.width (s.p.toNat % 8))
    (notLength : i.asLength = none) (notDist : f ≠ .dsym) : Emits s s.p t := by
  have wf := decoded.wellFormed
  have isFormat := decoded.format
  have running := h.phase_ne_done phase
  cases h with
  | bfinal | btypeStored | btypeFixed | btypeDynamic | hlit | hdist | hclen =>
    exact .of_running rfl rfl (by decide) (running rfl) moved rfl
  | storedHdr =>
    have pad : padOf s.p.toNat ≤ 7 := by unfold padOf; omega
    rw [Instr.width, padOf_mod] at moved
    exact .of_running rfl rfl (by omega) (running rfl) moved (length_spanAt_within (by omega) (by decide))
  | storedByte =>
    exact .of_running rfl rfl (by decide) (running rfl) moved (length_spanAt_within (w := 8) (by decide) (by decide))
  | storedEnd =>
    have aligned := (phaseOk_storedEnd phase.symm).mp hs
    refine .of_span (w := 0) rfl rfl (by decide) (endBlock_tileEnd (fun _ => ?_) fun _ => rfl)
      (length_spanAt_within (w := 0) ⟨Nat.zero_le _, Nat.zero_le _⟩ (by decide)).2
    simp only [State.emit_p, roundup8]
    omega
  | cllen => exact .of_running (State.closeCllen_trace _) rfl (by decide) (running rfl) moved rfl
  | clLen =>
    have bounds := code_bounds wf
    exact .of_running (State.closeLens_trace _) rfl (by omega) (running rfl) moved (lengthOk_codeLength s _ _ bounds)
  | clRepPrev | clZeroShort | clZeroLong =>
    have bounds := code_bounds wf
    exact .of_running (State.closeLens_trace _) rfl (by omega) (running rfl) moved
      (length_spanAt_within (by omega) (by decide))
  | lit =>
    have bounds := code_bounds wf
    have running : s.phase ≠ .done := by rw [← phase]; nofun
    exact .of_running rfl rfl (by omega) running moved (length_spanAt_within bounds (by decide))
  | eob n =>
    obtain ⟨final, notFinal, short⟩ := eob_width (n := n) (s.bfinal = 1) moved (code_bounds wf).2
    exact .of_span rfl rfl (Nat.lt_of_le_of_lt short (by decide)) (endBlock_tileEnd final notFinal)
      (length_spanAt_within ⟨Nat.zero_le _, short⟩ (by decide)).2
  | length view => cases notLength.symm.trans view
  | distance view => exact absurd (isFormat.symm.trans (asDistance_format view)) notDist

/-- The code of a length or distance element is not empty and has at most 15 bits (30_encoding.md R81), so its width is
bounded by that of its extra bits (43_block_body.md R215, R217). -/
theorem width_of_asLength {v : Nat × Nat × Nat} (view : i.asLength = some v) (wf : i.wellFormed = true) (align : Nat) :
    1 ≤ i.width align ∧ i.width align ≤ 20 := by
  obtain ⟨sym, n, lext⟩ := v
  obtain ⟨_, _, _, _, width⟩ := exec_of_asLength view State.reset
  have extra := lbits_le (sym - 257)
  have code : 1 ≤ n ∧ n ≤ 15 := by
    cases i <;> cases view <;> exact code_bounds wf
  rw [width]
  omega

theorem width_of_asDistance {v : Nat × Nat × Nat} (view : i.asDistance = some v) (wf : i.wellFormed = true)
    (align : Nat) : 1 ≤ i.width align ∧ i.width align ≤ 28 := by
  obtain ⟨d, n, dext⟩ := v
  obtain ⟨_, _, _, width⟩ := exec_of_asDistance view State.reset
  have extra := dbits_le d
  have code : 1 ≤ n ∧ n ≤ 15 := by
    cases i <;> cases view <;> exact code_bounds wf
  rw [width]
  omega

/-- A length part emits nothing and leaves its start, its own bits being at least one and at most 20 (43_block_body.md
R214). -/
theorem Completes.begins {q : MatchPart} {align : Nat} (h : Completes s i u) (noMatch : s.matchPart = none)
    (decoded : DecodedAs .llsym align i) (begun : u.matchPart = some q) :
    q.start = s.p ∧ u.phase = s.phase ∧ u.trace = s.trace ∧ 1 ≤ i.width align ∧ i.width align ≤ 20 := by
  cases view : i.asLength with
  | none => cases (h.matchPart_of_asLength view noMatch).symm.trans begun
  | some v =>
    obtain ⟨_, phase, trace, _⟩ := h.of_length view
    refine ⟨?_, phase, trace, width_of_asLength view decoded.wellFormed align⟩
    rcases h.matchPart_cases (by simp [decoded.format]) with same | ⟨_, _, q', begun', start⟩
    · cases (same.trans noMatch).symm.trans begun
    · obtain rfl := Option.some.inj (begun.symm.trans begun')
      exact start

/-- The record of a back-reference runs from its length part's start to the end of its distance part (43_block_body.md
R221). -/
theorem Completes.emits_match {q : MatchPart} {align : Nat} (h : Completes s i t) (running : s.phase ≠ .done)
    (decoded : DecodedAs .dsym align i) (moved : t.p.toNat = s.p.toNat + i.width align)
    (begun : s.matchPart = some q) (length : s.p.toNat = q.start.toNat + w) (bounds : 1 ≤ w ∧ w ≤ 20) :
    Emits s q.start t := by
  obtain ⟨isDist, wf, _⟩ := decoded
  cases h with
  | @distance _ d n dext q' view begun' =>
    obtain rfl : q = q' := Option.some.inj (begun.symm.trans begun')
    obtain ⟨low, high⟩ := width_of_asDistance view wf align
    rw [length, Nat.add_assoc] at moved
    have span := spanTo_eq_spanAt moved
    refine .of_running rfl span (by omega) running moved ?_
    rw [TraceRecord.LengthOk]
    exact span ▸ length_spanAt_within (by omega) (by decide)
  | length view => cases (asLength_format view).symm.trans isDist
  | _ => cases isDist

/-! ### The step -/

/-- An element that ends its step is no length part. -/
theorem Completes.asLength_eq_none (h : Completes s i t) (format : i.format = f)
    (whole : ¬ (f = .llsym ∧ t.matchPart.isSome = true)) : i.asLength = none :=
  Option.eq_none_iff_forall_ne_some.mpr fun _ view =>
    whole ⟨format.symm.trans (asLength_format view), (h.of_length view).1⟩

/-- An element raises, or completes and moves P by its width. -/
theorem runElement_moves (hn : s.runN.toNat < 2 ^ 29) (inSrc : s.p.toNat ≤ 8 * s.runN.toNat)
    (h : runElement f s = .next t) : Raises s f t ∨ ∃ i, DecodedAs f (s.p.toNat % 8) i ∧ Completes s i t ∧
      t.p.toNat = s.p.toNat + i.width (s.p.toNat % 8) := by
  by_cases raised : Raises s f t
  · exact .inl raised
  · obtain ⟨i, rest, decoded, done⟩ := runElement_completes h raised
    exact .inr ⟨i, (decode_ok decoded).1, done, done.p_toNat hn inSrc decoded⟩

/-- A raise emits nothing and puts P, where the tiling ends, back to the element start (60_exceptions.md R336). -/
theorem Raises.tileEnd_eq (h : Raises s f t) : t.tileEnd = (s.startFor f).toNat := by
  cases h <;> rfl

/-- Everything an element step does to the trace: nothing, in a quiet phase; or, from P on, a raise with no record or
one record. -/
inductive TraceStep (s : State) : State → Prop
  | quiet : TraceStep s s
  | raised {t : State} (busy : s.busy = true) (trace : t.trace = s.trace) (back : t.tileEnd = s.p.toNat) :
    TraceStep s t
  | emitted {t : State} (busy : s.busy = true) (record : Emits s s.p t) : TraceStep s t

theorem elementStep_traceStep (hs : s.Inv) (h : elementStep s = .next t) : TraceStep s t := by
  have hn := hs.runNBound
  have inSrc := hs.posInSrc
  rcases elementStep_cases h with ⟨_, rfl⟩ | ⟨f, format, run, whole⟩ | ⟨u, q, format, first, begun, second⟩
  · exact .quiet
  · have notDist := elementFormat_ne_dsym hs.noMatch format
    have busy := busy_of_elementFormat format
    rcases runElement_moves hn inSrc run with raised | ⟨i, decoded, done, moved⟩
    · exact .raised busy raised.trace_eq.1 (startFor_of_ne notDist ▸ raised.tileEnd_eq)
    · have notLength := done.asLength_eq_none decoded.format whole
      have phase : phaseOf i.format = s.phase := decoded.format ▸ elementFormat_phase format
      exact .emitted busy (done.emits phase hs.phaseOk decoded moved notLength notDist)
  · have busy := busy_of_elementFormat format
    rcases runElement_moves hn inSrc first with raised | ⟨i, decoded, done, moved⟩
    · cases raised.matchPart.symm.trans begun
    obtain ⟨start, phase, trace, bounds⟩ := done.begins hs.noMatch decoded begun
    have reads := done.reads hn
    rcases runElement_moves (reads.runN ▸ hn) (reads.runN ▸ reads.pos inSrc) second with
      raised | ⟨j, decoded', done', moved'⟩
    · have back := raised.tileEnd_eq
      rw [startFor_dsym begun, start] at back
      exact .raised busy (raised.trace_eq.1.trans trace) back
    · have running : u.phase ≠ .done := by
        rw [phase, ← elementFormat_phase format]
        nofun
      have emitted := done'.emits_match running decoded' moved' begun (start.symm ▸ moved) bounds
      rw [Emits, trace, start] at emitted
      exact .emitted busy emitted

/-- A phase with an element to decode is not DONE, so the tiling of what went before ends at P. -/
theorem tileEnd_of_busy (h : s.busy = true) : s.tileEnd = s.p.toNat := tileEnd_of_ne_done fun done => by
  rw [State.busy, done] at h
  cases h

theorem TraceStep.tiled (h : TraceStep s t) (hs : s.Tiled) : t.Tiled := by
  cases h with
  | quiet => exact hs
  | raised busy trace back =>
    rw [State.Tiled, trace, back, ← tileEnd_of_busy busy]
    exact hs
  | emitted busy record =>
    obtain ⟨r, trace, start, ends, _⟩ := record
    rw [State.Tiled, tileEnd_of_busy busy, ← start] at hs
    rw [State.Tiled, trace, List.map_append, ← ends, ← start]
    exact tiles_append hs

/-- START and reset empty the trace and set P to 0; no other act of the outside touches either, or PHASE. -/
theorem HostEffect.tiled (h : HostEffect s t) (hs : s.Tiled) : t.Tiled := by
  cases h with
  | start | reset => rfl
  | _ => exact hs

/-- Settles O46: a step emits nothing and leaves the tiling's end where it was, or emits one record from there to the
next end. -/
theorem traceTilesTheConsumedBits : Obligations.TraceTilesTheConsumedBits := fun _ _ hs tiled h =>
  (step_keeps (P := fun u => u.Inv ∧ u.Tiled) (fun _ acts hu => ⟨hu.1.withHost acts, hu.2⟩)
    (fun _ _ hu he => ⟨he.inv hu.1, he.tiled hu.2⟩)
    (fun _ _ hu he => ⟨elementStep_inv hu.1 he, (elementStep_traceStep hu.1 he).tiled hu.2⟩) ⟨hs, tiled⟩ h).2

/-- The one record of a step is the one its element emitted. -/
theorem TraceStep.lengthOk (h : TraceStep s t) (trace : t.trace = s.trace ++ [r]) : r.LengthOk := by
  cases h with
  | quiet => exact absurd trace (by simp)
  | raised _ same => exact absurd (same.symm.trans trace) (by simp)
  | emitted _ record =>
    obtain ⟨r', trace', _, _, lengthOk⟩ := record
    obtain rfl : r = r' := List.singleton_inj.mp (List.append_cancel_left (trace.symm.trans trace'))
    exact lengthOk

/-- A step of the engine alone is held back by the trace port, or does to the trace what its element step does. -/
theorem step_traceStep (hs : s.Inv) (noHost : s.host = []) (h : step s = .next t) : TraceStep s t := by
  rcases gate_next ((step_engine noHost).symm.trans h) with run | ⟨rfl, _⟩
  · exact elementStep_traceStep hs run
  · exact .quiet

/-- Settles O49: the record is that of the step's element, whose width bounds its span. -/
theorem recordSpansHaveTheirLengths : Obligations.RecordSpansHaveTheirLengths := fun _ _ _ hs noHost h trace =>
  (step_traceStep hs noHost h).lengthOk trace

end Sys2Proof.Machine

/-! ## The text of the trace is the output (45_trace.md R283)

A completed element appends to DST the text of the record it emits (`AppendsText`), and a raise emits no record and
keeps what stands below OUTLEN (`OutputGrows`). -/

namespace Sys2Proof.Machine

variable {s t : State} {f : Format} {i : Instr} {r : TraceRecord}

/-- From `s` to `t` the text of the trace has grown by the bytes that now stand in DST from OUTLEN on. -/
def AppendsText (s t : State) : Prop :=
  ∃ bytes, t.text = s.text ++ bytes ∧ t.outlen.toNat = s.outlen.toNat + bytes.length ∧
    ∀ k, (h : k < bytes.length) → t.dst.read (s.outlen.toNat + k) = bytes[k]

theorem text_of_same (trace : t.trace = s.trace) : t.text = s.text := by rw [State.text, trace, State.text]

theorem AppendsText.of_emitted {bytes : List Byte} (trace : t.trace = s.trace ++ [r]) (isText : r.text = bytes)
    (outlen : t.outlen.toNat = s.outlen.toNat + bytes.length)
    (stands : ∀ k, (h : k < bytes.length) → t.dst.read (s.outlen.toNat + k) = bytes[k]) : AppendsText s t := by
  refine ⟨bytes, ?_, outlen, stands⟩
  rw [State.text, trace, List.flatMap_append, List.flatMap_singleton, isText, State.text]

theorem AppendsText.of_silent (trace : t.trace = s.trace ++ [r]) (silent : r.text = []) (outlen : t.outlen = s.outlen) :
    AppendsText s t :=
  .of_emitted trace silent (congrArg BitVec.toNat outlen) nofun

theorem AppendsText.of_byte {b : Byte} (hdst : s.dst.wf) (hout : s.outlen.toNat ≤ s.runC.toNat)
    (room : s.outlen ≠ s.runC) (trace : t.trace = s.trace ++ [r]) (literal : r.text = [b])
    (dst : t.dst = (s.putByte b).dst) (outlen : t.outlen = (s.putByte b).outlen) : AppendsText s t := by
  refine .of_emitted trace literal ?_ fun k hk => ?_
  · rw [outlen]
    exact (putByte_outlen_toNat b hout room).1
  · obtain rfl : k = 0 := Nat.lt_one_iff.mp hk
    rw [dst]
    exact Memory.read_write_same _ _ _ hdst

/-- A literal or stored byte appends itself, a back-reference the bytes it produced, and every other element nothing
(43_block_body.md R211, R219; 44_block_machine.md R246). -/
theorem Completes.appendsText (h : Completes s i t) (hdst : s.dst.wf) (hout : s.outlen.toNat ≤ s.runC.toNat) :
    AppendsText s t := by
  cases h with
  | storedByte _ _ room | lit _ _ _ room => exact .of_byte hdst hout room rfl rfl rfl rfl
  | @distance _ d n dext q =>
    obtain ⟨new, produced, grown, _, stands, _⟩ :=
      (copyMatch_spec q.length.toNat (matchDistance d dext) hdst hout).produced
    exact .of_emitted rfl produced grown stands
  | length => exact ⟨[], (List.append_nil _).symm, rfl, nofun⟩
  | cllen => exact .of_silent (State.closeCllen_trace _) rfl (State.closeCllen_outlen _)
  | clLen | clRepPrev | clZeroShort | clZeroLong =>
    exact .of_silent (State.closeLens_trace _) rfl (State.closeLens_outlen _)
  | _ => exact .of_silent rfl rfl rfl

/-! ### The step -/

/-- A raise leaves what stood in DST below OUTLEN (45_trace.md R283). -/
theorem Raises.textOk (h : Raises s f t) (hs : s.TextOk) (hdst : s.dst.wf) (hout : s.outlen.toNat ≤ s.runC.toNat) :
    t.TextOk := by
  obtain ⟨grown, _, frame⟩ := h.outputGrows hout hdst
  obtain ⟨bytes, within, _⟩ := hs
  refine ⟨?_, ?_, fun running => absurd h.phase running⟩
  all_goals rw [text_of_same h.trace_eq.1]
  · intro i hi
    rw [frame i (.inl (Nat.lt_of_lt_of_le hi within))]
    exact bytes i hi
  · exact Nat.le_trans within grown

theorem Completes.textOk (h : Completes s i t) (hs : s.TextOk) (running : s.phase ≠ .error) (hdst : s.dst.wf)
    (hout : s.outlen.toNat ≤ s.runC.toNat) : t.TextOk := by
  obtain ⟨new, text, outlen, stands⟩ := h.appendsText hdst hout
  obtain ⟨_, _, frame⟩ := h.outputGrows hout hdst
  obtain ⟨bytes, _, whole⟩ := hs
  have whole := whole running
  have total : t.text.length = t.outlen.toNat := by rw [text, List.length_append, whole, outlen]
  refine ⟨fun i hi => ?_, Nat.le_of_eq total, fun _ => total⟩
  rw [List.getElem_of_eq text, List.getElem_append]
  split
  next old =>
    rw [frame i (.inl (whole ▸ old))]
    exact bytes i old
  next added =>
    rw [← stands]
    congr 1
    omega

/-- Outside ERROR, where the text is the whole output, an element keeps the two in step. -/
theorem runElement_textOk (run : runElement f s = .next t) (hs : s.TextOk) (running : s.phase ≠ .error)
    (hdst : s.dst.wf) (hout : s.outlen.toNat ≤ s.runC.toNat) : t.TextOk := by
  rcases runElement_cases run with raised | ⟨i, _, done⟩
  · exact raised.textOk hs hdst hout
  · exact done.textOk hs running hdst hout

theorem elementStep_textOk (hs : s.Inv) (text : s.TextOk) (h : elementStep s = .next t) : t.TextOk := by
  have running {f : Format} (format : s.elementFormat = some f) : s.phase ≠ .error := by
    rw [← elementFormat_phase format]
    cases f <;> nofun
  cases elementStep_made hs.noMatch h with
  | quiet => exact text
  | one format run => exact runElement_textOk run text (running format) hs.dstWf hs.outInDst
  | two format _ first _ _ phase second =>
    have middle := first.textOk text (running format) hs.dstWf hs.outInDst
    obtain ⟨hdst, hout⟩ := first.output hs.dstWf hs.outInDst
    exact runElement_textOk second middle (phase ▸ running format) hdst hout

/-- Settles O47: an element step appends the same bytes to the text and to the output, or raises. -/
theorem traceTextIsTheOutput : Obligations.TraceTextIsTheOutput := by
  unfold Obligations.TraceTextIsTheOutput
  intro s t hs noHost text h
  rcases gate_next ((step_engine noHost).symm.trans h) with run | ⟨rfl, _⟩
  · exact elementStep_textOk hs text run
  · exact text

end Sys2Proof.Machine

/-! ## The trace port holds the engine (45_trace.md R286)

No element reads or sets the readiness of the trace port's consumer, so a step with the consumer not ready takes the
step of a ready consumer up to the gate, which alone looks at it. -/

namespace Sys2Proof.Machine

variable {s t : State} {b : Bool}

/-- The state with the consumer's readiness set. -/
def State.withReady (s : State) (b : Bool) : State := { s with traceReady := b }

/-- The outcome with the consumer's readiness set. -/
def resWithReady (b : Bool) : Res → Res
  | .next t => .next (t.withReady b)
  | .fault e => .fault e
  | .refused e => .refused e

/-- A choice whose condition does not look at the readiness. -/
theorem ite_withReady {c : Prop} [Decidable c] {r r' q q' : Res} (hr : r' = resWithReady b r)
    (hq : q' = resWithReady b q) : (if c then r' else q') = resWithReady b (if c then r else q) := by
  split
  · exact hr
  · exact hq

/-- A read does not look at it, so only what follows the read matters. -/
theorem reading_withReady {ws : List Nat} {e : Word} {k k' : State → Res}
    (hk : k' ((s.advance ws).withReady b) = resWithReady b (k (s.advance ws))) :
    reading ws e (s.withReady b) k' = resWithReady b (reading ws e s k) :=
  ite_withReady hk rfl

theorem closeLens_withReady {t' : State} (twin : t' = t.withReady b) :
    Host.Outcome.next t'.closeLens = resWithReady b (.next t.closeLens) := by
  subst twin
  refine congrArg Host.Outcome.next ?_
  rcases closeLens_cases t with ⟨hc, e⟩ | ⟨hc, e⟩ <;> rw [e]
  · exact if_pos hc
  · exact if_neg hc

theorem closeCllen_withReady {t' : State} (twin : t' = t.withReady b) :
    Host.Outcome.next t'.closeCllen = resWithReady b (.next t.closeCllen) := by
  subst twin
  refine congrArg Host.Outcome.next ?_
  rcases closeCllen_cases t with ⟨hc, e⟩ | ⟨hc, e⟩ <;> rw [e]
  · exact if_pos hc
  · exact if_neg hc

theorem repeatLens_withReady (v : BitVec 4) (cnt rs width : Nat) (e : Word) (s : State) :
    repeatLens v cnt rs width e (s.withReady b) = resWithReady b (repeatLens v cnt rs width e s) :=
  ite_withReady rfl (closeLens_withReady rfl)

theorem lengthPart_withReady (sym n lext : Nat) (s : State) :
    lengthPart sym n lext (s.withReady b) = resWithReady b (lengthPart sym n lext s) :=
  reading_withReady rfl

theorem distancePart_withReady (d n dext : Nat) (s : State) :
    distancePart d n dext (s.withReady b) = resWithReady b (distancePart d n dext s) := by
  unfold distancePart
  rw [show (s.withReady b).matchPart = s.matchPart from rfl]
  split
  · rfl
  · exact reading_withReady (ite_withReady rfl (ite_withReady rfl rfl))

theorem reservedDistance_withReady (n : Nat) (s : State) :
    reservedDistance n (s.withReady b) = resWithReady b (reservedDistance n s) := by
  unfold reservedDistance
  rw [show (s.withReady b).matchPart = s.matchPart from rfl]
  split
  · rfl
  · exact reading_withReady rfl

theorem exec_withReady (i : Instr) (s : State) (b : Bool) : exec i (s.withReady b) = resWithReady b (exec i s) := by
  cases i <;>
    simp only [exec, execBfinal, execBtypeStored, execBtypeFixed, execBtypeDynamic, execBtypeReserved, blockType,
      execStoredHdr, execStoredByte, execHlit, execHlitReserved, execHdist, execHclen, execCllen, execClLen,
      execClRepPrev, execClZeroShort, execClZeroLong, execLit, execEob, execLitlenReserved286, execLitlenReserved287,
      reservedSymbol]
  case bfinal | btypeStored | btypeFixed | btypeDynamic | btypeReserved | hlit | hlitReserved | hdist | hclen | eob
      | litlenReserved286 | litlenReserved287 =>
    exact reading_withReady rfl
  case storedHdr => exact ite_withReady rfl (ite_withReady rfl rfl)
  case storedByte | lit => exact reading_withReady (ite_withReady rfl rfl)
  case storedEnd => rfl
  case cllen => exact reading_withReady (closeCllen_withReady rfl)
  case clLen => exact reading_withReady (closeLens_withReady rfl)
  case clRepPrev =>
    exact reading_withReady (ite_withReady rfl (reading_withReady (repeatLens_withReady _ _ _ _ _ _)))
  case clZeroShort | clZeroLong => exact reading_withReady (repeatLens_withReady _ _ _ _ _ _)
  case distReserved30 | distReserved31 => exact reservedDistance_withReady _ s
  all_goals first
    | exact lengthPart_withReady _ _ _ s
    | exact distancePart_withReady _ _ _ s

theorem runElement_withReady (f : Format) (s : State) (b : Bool) :
    runElement f (s.withReady b) = resWithReady b (runElement f s) := by
  unfold runElement
  rw [show (s.withReady b).decodeCtx = s.decodeCtx from rfl, show (s.withReady b).fetchBits = s.fetchBits from rfl,
    show (s.withReady b).startFor f = s.startFor f by cases f <;> rfl]
  split
  · exact exec_withReady _ s b
  · rename_i err _
    cases err <;> rfl

theorem elementStep_withReady (s : State) (b : Bool) :
    elementStep (s.withReady b) = resWithReady b (elementStep s) := by
  unfold elementStep
  rw [show (s.withReady b).elementFormat = s.elementFormat from rfl]
  split
  · rfl
  · rename_i f _
    rw [runElement_withReady]
    cases runElement f s with
    | next t => exact ite_withReady (runElement_withReady _ t b) rfl
    | fault e => rfl
    | refused e => rfl

/-- While the consumer accepts nothing, the gate lets a step through that adds no record, and holds back any other. -/
theorem gate_not_ready (h : s.traceReady = false) (t : State) :
    s.gate (.next t) = .next (if t.trace.length = s.trace.length then t else s) := by
  by_cases same : t.trace.length = s.trace.length
  · rw [if_pos same]
    exact if_neg fun held => held.2 same
  · rw [if_neg same]
    exact if_pos ⟨h, same⟩

/-- The act `engine` with more to come: the engine step of the state with nothing to do for the host (log entry 5). -/
theorem step_act_engine {rest : List HostAct} (h : s.host = .engine :: rest) :
    step s = resWithHost rest (step { s with host := [] }) :=
  (step_host h).trans (engineStep_withHost { s with host := [] } rest)

/-- Settles O60: the gate sees the step of a ready consumer; the two acts are what `perform` says of them. -/
theorem tracePortHoldsTheEngine : Obligations.TracePortHoldsTheEngine := by
  unfold Obligations.TracePortHoldsTheEngine
  refine ⟨fun s t u noHost notReady h ready => ?_, fun s b rest h => step_host h, fun s rest h => step_host h,
    fun s t rest h run => by rw [step_act_engine h, run]; rfl⟩
  have run : elementStep (s.withReady true) = .next u :=
    (step_undisturbed (s := s.withReady true) ⟨noHost, rfl⟩).symm.trans ready
  have held : s = (s.withReady true).withReady false := by
    rw [State.withReady, State.withReady, ← notReady]
  have run' : elementStep s = .next (u.withReady false) := by
    rw [held, elementStep_withReady, run]
    rfl
  rw [step_engine noHost, engineStep, run', gate_not_ready notReady] at h
  exact (Host.Outcome.next.inj h).symm

end Sys2Proof.Machine

/-! ## The register port (46_host_interface.md R301 to R305)

An act on an aligned 32-bit register is the register at its offset, if there is one (`step_regRead`, `step_regWrite`);
`Reg.atOffset_cases` says which one that is. -/

namespace Sys2Proof.Machine

variable {s t : State}

/-- The byte offsets of 46_host_interface.md R301: what `Reg.atOffset` inverts. -/
def Reg.offset : Reg → Word
  | .ctrl => 0x00
  | .status => 0x04
  | .error => 0x08
  | .srcLen => 0x0C
  | .dstCap => 0x10
  | .outLen => 0x14
  | .bitPos => 0x18
  | .traceCount => 0x1C
  | .phase => 0x20
  | .consumedBytes => 0x24

/-- An offset is that of one register, or of none. -/
theorem Reg.atOffset_cases (offset : Word) :
    (∃ r : Reg, offset = r.offset ∧ Reg.atOffset offset.toNat = some r) ∨
      (∀ r : Reg, offset ≠ r.offset) ∧ Reg.atOffset offset.toNat = none := by
  cases found : Reg.atOffset offset.toNat with
  | some r =>
    refine .inl ⟨r, BitVec.eq_of_toNat_eq ?_, rfl⟩
    unfold Reg.atOffset at found
    split at found <;> cases found <;> assumption
  | none =>
    refine .inr ⟨fun r same => ?_, rfl⟩
    subst same
    cases r <;> cases found

/-- The read data of an aligned register access: undecoded offsets read 0 (46_host_interface.md R301). -/
def State.readAt (s : State) (offset : Word) : Word := ((Reg.atOffset offset.toNat).map s.readReg).getD 0

/-- The effect of an aligned register write: undecoded offsets ignore it (46_host_interface.md R301). -/
def State.writeAt (s : State) (offset v : Word) : State :=
  ((Reg.atOffset offset.toNat).map fun r => s.writeReg r v).getD s

theorem regAccessOk_add {offset : Word} (aligned : offset.toNat % 4 = 0) : regAccessOk (Config.csrBase + offset) 4 :=
  ⟨rfl, (regOffset_add offset).symm ▸ aligned⟩

theorem step_regRead {offset : Word} {rest : List HostAct} (aligned : offset.toNat % 4 = 0)
    (h : s.host = .regRead (Config.csrBase + offset) 4 :: rest) :
    step s = .next { s with host := rest, readData := s.readAt offset } := by
  rw [step_host h, perform, regRead, if_pos (regAccessOk_add aligned), regOffset_add, State.readAt]
  cases Reg.atOffset offset.toNat with
  | none => rfl
  | some r => cases r <;> rfl

theorem step_regWrite {offset v : Word} {rest : List HostAct} (aligned : offset.toNat % 4 = 0)
    (h : s.host = .regWrite (Config.csrBase + offset) 4 v :: rest) :
    step s = .next (({ s with host := rest } : State).writeAt offset v) := by
  rw [step_host h, perform, regWrite, if_pos (regAccessOk_add aligned), regOffset_add, State.writeAt]
  cases Reg.atOffset offset.toNat <;> rfl

/-- STATUS as a word of its three fields (46_host_interface.md R302). -/
theorem status_eq (s : State) :
    s.status = (s.phase.statusState.setWidth 32 ||| (s.bfinal.setWidth 32 <<< 2)) ||| (s.active.setWidth 32 <<< 3) := by
  have fields : ∀ (state : BitVec 2) (bfinal active : BitVec 1),
      BitVec.ofNat 32 (state.toNat + 4 * bfinal.toNat + 8 * active.toNat) =
        (state.setWidth 32 ||| (bfinal.setWidth 32 <<< 2)) ||| (active.setWidth 32 <<< 3) := by decide
  exact fields ..

/-- Settles O56: the register at the offset is read, and an offset that is no register's reads 0. -/
theorem registerReads : Obligations.RegisterReads := by
  unfold Obligations.RegisterReads
  intro s offset rest aligned h
  rw [step_regRead aligned h, ← status_eq]
  congr 2
  rcases Reg.atOffset_cases offset with ⟨r, rfl, found⟩ | ⟨other, found⟩
  · rw [State.readAt, found]
    cases r <;> rfl
  · rw [State.readAt, found]
    exact ((if_neg (other .status)).trans <| (if_neg (other .error)).trans <| (if_neg (other .srcLen)).trans <|
      (if_neg (other .dstCap)).trans <| (if_neg (other .outLen)).trans <| (if_neg (other .bitPos)).trans <|
      (if_neg (other .traceCount)).trans <| (if_neg (other .phase)).trans <| if_neg (other .consumedBytes)).symm

/-- The offsets at which a write is ignored: those of the read-only registers, and those no register has. -/
theorem writeAt_readOnly {offset : Word} (v : Word)
    (readOnly : offset.toNat = 0x04 ∨ offset.toNat = 0x08 ∨ 0x14 ≤ offset.toNat) : s.writeAt offset v = s := by
  rcases Reg.atOffset_cases offset with ⟨r, rfl, found⟩ | ⟨_, found⟩
  · rw [State.writeAt, found]
    cases r with
    | ctrl | srcLen | dstCap => exact absurd readOnly (by decide)
    | _ => rfl
  · rw [State.writeAt, found]
    rfl

/-- Settles O55: at 0x0C and 0x10 `writeAt` is `writeSrcLen` and `writeDstCap`, which are R304's guard; at the other
offsets from 0x04 up it does nothing. -/
theorem registerWrites : Obligations.RegisterWrites :=
  ⟨fun _ _ _ => step_regWrite (by decide), fun _ _ _ => step_regWrite (by decide),
    fun _ v _ _ aligned readOnly h => (step_regWrite aligned h).trans (congrArg _ (writeAt_readOnly v readOnly))⟩

/-- Settles O53: CTRL is the register at offset 0, and `writeAt` there is `writeCtrl`, START under R303's guard. -/
theorem startBeginsARun : Obligations.StartBeginsARun := fun s v rest h =>
  have atZero : s.host = .regWrite (Config.csrBase + 0) 4 v :: rest := by simpa using h
  step_regWrite (by decide) atZero

/-- Settles O57: the shape is what `regAccessOk` asks, and neither access goes further without it. -/
theorem oddRegisterAccesses : Obligations.OddRegisterAccesses := by
  unfold Obligations.OddRegisterAccesses
  intro s addr v bytes rest odd
  have shape : ¬ regAccessOk addr bytes := fun ok => odd.elim (absurd ok.1) (absurd ok.2)
  refine ⟨fun h => (step_host h).trans (if_neg shape), fun h => ?_⟩
  exact ⟨_, _, (step_host h).trans (if_neg shape)⟩

/-! ## START and the length registers (46_host_interface.md R303, R304) -/

/-- START meets the engine invariant: N takes SRC_LEN's bound, and the run's registers are 0. -/
theorem State.Inv.start (hs : s.Inv) : s.start.Inv where
  srcWf := hs.srcWf
  dstWf := hs.dstWf
  posInSrc := Nat.zero_le _
  runNBound := hs.srcLenBound
  srcLenBound := hs.srcLenBound
  outInDst := Nat.zero_le _
  btypeOk := (by decide : (0 : BitVec 2) ≠ 3)
  noMatch := hs.noMatch
  phaseOk := trivial

theorem start_textOk (s : State) : s.start.TextOk where
  bytes i h := absurd h (Nat.not_lt_zero i)
  within := Nat.zero_le _
  whole _ := rfl

/-- Settles O54: the trace is empty, P and OUTLEN are 0, and the reader is the one at the start of the source. -/
theorem startMeetsTheRunInvariants : Obligations.StartMeetsTheRunInvariants := fun s hs =>
  ⟨hs.start, rfl, start_textOk s, fun _ => BitCursor.start_coherent s.src s.srcLen.toNat⟩

/-- SRC_LEN, DST_CAP, N and C are in their legal ranges (46_host_interface.md R304). -/
structure State.LengthsLegal (s : State) : Prop where
  srcLen : s.srcLen.toNat ≤ Config.srcMaxBytes
  dstCap : s.dstCap.toNat ≤ Config.dstCapMax
  runN : s.runN.toNat ≤ Config.srcMaxBytes
  runC : s.runC.toNat ≤ Config.dstCapMax

/-- The four length registers of `t` are those of `s`. -/
structure SameLengths (s t : State) : Prop where
  srcLen : t.srcLen = s.srcLen
  dstCap : t.dstCap = s.dstCap
  runN : t.runN = s.runN
  runC : t.runC = s.runC

theorem SameLengths.legal (h : SameLengths s t) (hs : s.LengthsLegal) : t.LengthsLegal :=
  ⟨h.srcLen ▸ hs.srcLen, h.dstCap ▸ hs.dstCap, h.runN ▸ hs.runN, h.runC ▸ hs.runC⟩

theorem Raises.sameLengths {f : Format} (h : Raises s f t) : SameLengths s t := by
  cases h <;> exact ⟨rfl, rfl, rfl, rfl⟩

theorem Completes.sameLengths {i : Instr} (h : Completes s i t) : SameLengths s t := by
  cases h <;> constructor <;> simp [State.afterRepeat]

/-- No element writes a length register. -/
theorem runElement_sameLengths {f : Format} (run : runElement f s = .next t) : SameLengths s t := by
  rcases runElement_cases run with raised | ⟨_, _, done⟩
  · exact raised.sameLengths
  · exact done.sameLengths

/-- The host writes SRC_LEN and DST_CAP within their maxima alone, and START latches N and C from them. -/
theorem HostEffect.lengthsLegal (h : HostEffect s t) (hs : s.LengthsLegal) : t.LengthsLegal := by
  obtain ⟨srcLen, dstCap, runN, runC⟩ := hs
  cases h with
  | start => exact ⟨srcLen, dstCap, srcLen, dstCap⟩
  | reset => exact ⟨Nat.zero_le _, Nat.zero_le _, Nat.zero_le _, Nat.zero_le _⟩
  | srcLen _ _ legal => exact ⟨legal, dstCap, runN, runC⟩
  | dstCap _ _ legal => exact ⟨srcLen, legal, runN, runC⟩
  | srcByte | dstByte | outside => exact ⟨srcLen, dstCap, runN, runC⟩

theorem step_lengthsLegal (h : step s = .next t) (hs : s.LengthsLegal) : t.LengthsLegal :=
  step_keeps (P := State.LengthsLegal) (fun _ _ hu => ⟨hu.srcLen, hu.dstCap, hu.runN, hu.runC⟩)
    (fun _ _ hu he => he.lengthsLegal hu)
    (fun _ _ hu he => elementStep_keeps (fun _ _ _ hv run => (runElement_sameLengths run).legal hv) hu he) hs h

/-- Settles O44: the host keeps the ranges and the engine the registers; each maximum meets its constraint. -/
theorem lengthRegistersStayLegal : Obligations.LengthRegistersStayLegal := by
  unfold Obligations.LengthRegistersStayLegal
  refine ⟨fun s t h ⟨srcLen, dstCap, runN, runC⟩ => ?_, Nat.le_max_left .., Nat.le_sub_one_of_lt srcMaxBytes_lt,
    Nat.le_sub_one_of_lt Config.dstCapMaxRaw.isLt⟩
  obtain ⟨srcLen', dstCap', runN', runC'⟩ := step_lengthsLegal h ⟨srcLen, dstCap, runN, runC⟩
  exact ⟨srcLen', dstCap', runN', runC'⟩

end Sys2Proof.Machine

/-! ## Precise faults

An element that completes outside ERROR stays outside it, so the elements that end in ERROR are those that raise, and
`Raises` says all of what a raise changes. -/

namespace Sys2Proof.Machine

variable {s t : State} {i : Instr}

/-- A choice between two phases other than ERROR is not ERROR. -/
theorem ite_phase_ne_error {c : Prop} [Decidable c] {a b : Phase} (ha : a ≠ .error) (hb : b ≠ .error) :
    (if c then a else b) ≠ .error :=
  iteInduction (motive := (· ≠ Phase.error)) (fun _ => ha) fun _ => hb

theorem closeLens_phase_ne_error (running : s.phase ≠ .error) : s.closeLens.phase ≠ .error := by
  rcases closeLens_cases s with ⟨_, closed⟩ | ⟨_, closed⟩ <;> simp [closed, running]

theorem closeCllen_phase_ne_error (running : s.phase ≠ .error) : s.closeCllen.phase ≠ .error := by
  rcases closeCllen_cases s with ⟨_, closed⟩ | ⟨_, closed⟩ <;> simp [closed, running]

/-- Only a raise enters ERROR (60_exceptions.md R335). -/
theorem Completes.phase_ne_error (h : Completes s i t) (running : s.phase ≠ .error) : t.phase ≠ .error := by
  cases h with
  | storedHdr | storedEnd | eob => exact ite_phase_ne_error nofun nofun
  | storedByte => exact ite_phase_ne_error nofun running
  | cllen => exact closeCllen_phase_ne_error running
  | clLen | clRepPrev | clZeroShort | clZeroLong => exact closeLens_phase_ne_error running
  | lit | length | distance => exact running
  | _ => nofun

/-- Settles O40: the element raised, and a raise has its own fields alone, but for the output of a stopped copy. -/
theorem faultsArePrecise : Obligations.FaultsArePrecise := by
  unfold Obligations.FaultsArePrecise
  intro s t i running h error
  rcases exec_cases h with raised | done
  · generalize i.format = f at raised ⊢
    cases raised with
    | fault _ err coded => exact ⟨rfl, coded.1, coded.2, fun _ => ⟨rfl, rfl⟩⟩
    | overflow => exact ⟨rfl, nofun, nofun, fun exempt => absurd exempt (by simp)⟩
  · exact absurd error (done.phase_ne_error running)

end Sys2Proof.Machine

/-! ## Reset, and the length of a run (70_reset_and_hazards.md R360, R369)

Every element but STORED_END takes at least one bit, and a stored header takes the 32 of its two fields, which pay for
the STORED_END that follows it. `State.stepsLeft` counts the steps the bits from P on allow, and each step of a run
spends one of them. -/

namespace Sys2Proof.Machine

variable {s t : State} {f : Format} {i : Instr}

/-- Settles O59: the act is `applyReset`, and every register of R43 has its value from the literal `State.reset`. -/
theorem resetInputAbandonsTheRun : Obligations.ResetInputAbandonsTheRun := fun _ _ h =>
  ⟨_, _, _, _, _, _, _, step_host h⟩

/-! ### The bits of an element -/

/-- The least number of bits an element of a phase takes (30_encoding.md R82). -/
def Phase.leastBits : Phase → Nat
  | .storedHdr => 32
  | .storedEnd => 0
  | _ => 1

/-- A completed element is at least as wide as its phase asks. -/
theorem Completes.leastBits_le (h : Completes s i t) (wf : i.wellFormed = true) (align : Nat) :
    (phaseOf i.format).leastBits ≤ i.width align := by
  cases h with
  | storedHdr => exact Nat.le_add_left 32 _
  | clLen | lit | eob => exact (code_bounds wf).1
  | clRepPrev | clZeroShort | clZeroLong => exact Nat.le_add_right_of_le (code_bounds wf).1
  | length view =>
    rw [asLength_format view]
    exact (width_of_asLength view wf align).1
  | distance view =>
    rw [asDistance_format view]
    exact (width_of_asDistance view wf align).1
  | _ => exact of_decide_eq_true rfl

/-- An element raises or moves P by the bits its phase asks. -/
theorem runElement_advances (phase : phaseOf f = s.phase) (hn : s.runN.toNat < 2 ^ 29)
    (inSrc : s.p.toNat ≤ 8 * s.runN.toNat) (run : runElement f s = .next t) :
    t.phase = .error ∨ s.p.toNat + s.phase.leastBits ≤ t.p.toNat := by
  rcases runElement_moves hn inSrc run with raised | ⟨i, decoded, done, moved⟩
  · exact .inl raised.phase
  · have enough := done.leastBits_le decoded.wellFormed (s.p.toNat % 8)
    rw [decoded.format, phase] at enough
    exact .inr (moved ▸ Nat.add_le_add_left enough _)

/-- A step of a run raises or moves P by the bits its phase asks: a back-reference does so with its length part
already. -/
theorem elementStep_advances (hs : s.Inv) (busy : s.busy = true) (h : elementStep s = .next t) :
    t.phase = .error ∨ s.p.toNat + s.phase.leastBits ≤ t.p.toNat := by
  have hn := hs.runNBound
  have inSrc := hs.posInSrc
  rcases elementStep_cases h with ⟨format, _⟩ | ⟨f, format, run, _⟩ | ⟨u, q, format, first, begun, second⟩
  · cases busy.symm.trans (elementFormat_eq_none.mp format)
  · exact runElement_advances (elementFormat_phase format) hn inSrc run
  · obtain ⟨samePhase, _, _⟩ := runElement_length format first begun
    have body : phaseOf .llsym = s.phase := elementFormat_phase format
    have busy' : u.busy = true := by rwa [State.busy, samePhase]
    have reads := (runElement_reads hn first).resolve_left (by simp [busy'])
    have moved := (runElement_advances body hn inSrc first).resolve_left (by rw [samePhase, ← body]; nofun)
    have distance := runElement_advances (f := .dsym) (body.trans samePhase.symm) (reads.runN ▸ hn)
      (reads.runN ▸ reads.pos inSrc) second
    exact distance.imp_right fun further => Nat.le_trans moved (Nat.le_trans (Nat.le_add_right ..) further)

/-! ### The steps left -/

/-- The STORED_END that a stored block still has to come (44_block_machine.md R247). -/
def Phase.endsOwed : Phase → Nat
  | .storedData => 1
  | .storedEnd => 1
  | _ => 0

/-- The bits of the source from P on. -/
def State.bitsLeft (s : State) : Nat := 8 * s.runN.toNat - s.p.toNat

/-- A bound on the steps of the run to come: one for each bit left, one STORED_END for each 32 of them and for the
stored block in progress, and one that raises (70_reset_and_hazards.md R369). -/
def State.stepsLeft (s : State) : Nat :=
  if s.busy then s.bitsLeft + s.bitsLeft / 32 + s.phase.endsOwed + 1 else 0

/-- Bits left in a quiet phase allow no step. -/
theorem stepsLeft_of_not_busy (h : s.busy = false) : s.stepsLeft = 0 := if_neg (by simp [h])

theorem stepsLeft_of_busy (h : s.busy = true) :
    s.stepsLeft = s.bitsLeft + s.bitsLeft / 32 + s.phase.endsOwed + 1 := if_pos h

theorem stepsLeft_le (s : State) : s.stepsLeft ≤ s.bitsLeft + s.bitsLeft / 32 + s.phase.endsOwed + 1 := by
  unfold State.stepsLeft
  split
  · exact Nat.le_refl _
  · exact Nat.zero_le _

/-- The bits of an element pay for its step and for the STORED_END it comes to owe. -/
theorem endsOwed_of_successor (p : Phase) :
    ∀ q ∈ p.successors, q.endsOwed + 1 ≤ p.endsOwed + p.leastBits + p.leastBits / 32 := by
  cases p <;> decide

/-- Each step of a run spends one of the steps left. -/
theorem step_stepsLeft_lt (hs : s.Inv) (undisturbed : s.Undisturbed) (busy : s.busy = true) (h : step s = .next t) :
    t.stepsLeft < s.stepsLeft := by
  have run := (step_undisturbed undisturbed).symm.trans h
  rw [stepsLeft_of_busy busy]
  by_cases raised : t.phase = .error
  · rw [stepsLeft_of_not_busy (by rw [State.busy, raised]; rfl)]
    exact Nat.succ_pos _
  · have moved := (elementStep_advances hs busy run).resolve_left raised
    have follows := (stepFollowsThePhaseTable s t undisturbed busy h).resolve_left fun error => raised error.1
    have paid := endsOwed_of_successor s.phase t.phase follows.1
    have sameN : t.runN = s.runN := elementStep_keeps (P := fun u => u.runN = s.runN)
      (fun _ _ _ same run => (runElement_sameLengths run).runN.trans same) rfl run
    have inSrc := sameN ▸ (elementStep_inv hs run).posInSrc
    have spent : t.bitsLeft + s.phase.leastBits ≤ s.bitsLeft := by
      rw [State.bitsLeft, State.bitsLeft, sameN]
      omega
    have bound := stepsLeft_le t
    omega

/-! ### The run -/

/-- An engine step leaves what is outside the engine as it is. -/
theorem elementStep_undisturbed (undisturbed : s.Undisturbed) (h : elementStep s = .next t) : t.Undisturbed := by
  obtain ⟨noHost, ready⟩ := undisturbed
  have sameHost := elementStep_withHost s s.host
  have sameReady := elementStep_withReady s s.traceReady
  rw [show s.withHost s.host = s from rfl, h] at sameHost
  rw [show s.withReady s.traceReady = s from rfl, h] at sameReady
  exact ⟨(congrArg State.host (Host.Outcome.next.inj sameHost)).trans noHost,
    (congrArg State.traceReady (Host.Outcome.next.inj sameReady)).trans ready⟩

/-- A run has begun and nothing from outside touches it: what each step of a run keeps. -/
structure State.Running (s : State) : Prop where
  inv : s.Inv
  undisturbed : s.Undisturbed
  begun : s.phase ≠ .idle

theorem idle_notMem_successors (p : Phase) : Phase.idle ∉ p.successors := by cases p <;> decide

/-- A run that is no longer BUSY has ended in DONE or ERROR (10_state.md R39). -/
theorem State.Running.ended (hs : s.Running) (h : s.busy = false) : s.phase = .done ∨ s.phase = .error := by
  have begun := hs.begun
  cases phase : s.phase
  case idle => exact absurd phase begun
  case done => exact .inl rfl
  case error => exact .inr rfl
  all_goals
    rw [State.busy, phase] at h
    cases h

/-- A run takes a step, keeps running and has one step less left, if it had any. -/
theorem State.Running.continues (hs : s.Running) :
    ∃ t, step s = .next t ∧ t.Running ∧ t.stepsLeft ≤ s.stepsLeft - 1 := by
  obtain ⟨inv, undisturbed, begun⟩ := hs
  obtain ⟨t, run⟩ := elementStep_answers inv
  have stepped : step s = .next t := (step_undisturbed undisturbed).trans run
  cases busy : s.busy with
  | false =>
    have same : Host.Outcome.next s = .next t := (elementStep_none (elementFormat_eq_none.mpr busy)).symm.trans run
    obtain rfl := Host.Outcome.next.inj same
    exact ⟨s, stepped, ⟨inv, undisturbed, begun⟩, by rw [stepsLeft_of_not_busy busy]⟩
  | true =>
    have begun' : t.phase ≠ .idle := fun idle => by
      rcases stepFollowsThePhaseTable s t undisturbed busy stepped with ⟨error, _⟩ | ⟨follows, _⟩
      · cases idle.symm.trans error
      · exact idle_notMem_successors _ (idle ▸ follows)
    exact ⟨t, stepped, ⟨elementStep_inv inv run, elementStep_undisturbed undisturbed run, begun'⟩,
      Nat.le_sub_one_of_lt (step_stepsLeft_lt inv undisturbed busy stepped)⟩

theorem run_succ {k : Nat} (h : step s = .next t) :
    Host.Core.run Sys2Proof.core (k + 1) s = Host.Core.run Sys2Proof.core k t := by
  have stepped : Sys2Proof.core.step s = .next t := h
  simp only [Host.Core.run, stepped]

/-- A run ends within the steps it has left. -/
theorem State.Running.ends {k : Nat} (hs : s.Running) (enough : s.stepsLeft ≤ k) :
    ∃ t, Host.Core.run Sys2Proof.core k s = .next t ∧ (t.phase = .done ∨ t.phase = .error) := by
  induction k generalizing s with
  | zero =>
    refine ⟨s, rfl, hs.ended (Bool.eq_false_iff.mpr fun busy => ?_)⟩
    rw [stepsLeft_of_busy busy] at enough
    omega
  | succ k ih =>
    obtain ⟨t, stepped, running, spent⟩ := hs.continues
    rw [run_succ stepped]
    exact ih running (by omega)

/-- Settles O50: the steps left at the start of a run are the bound, and each step spends one of them. -/
theorem runEndsWithinTheBound : Obligations.RunEndsWithinTheBound := by
  unfold Obligations.RunEndsWithinTheBound
  intro s inv undisturbed phase start
  refine State.Running.ends ⟨inv, undisturbed, by rw [phase]; nofun⟩ (Nat.le_trans (stepsLeft_le s) ?_)
  have bits : s.bitsLeft = 8 * s.runN.toNat := by rw [State.bitsLeft, start]; rfl
  have noneOwed : s.phase.endsOwed = 0 := by rw [phase]; rfl
  omega

end Sys2Proof.Machine
